-- ==== Sys2Proof/Word.lean ====
section
/-!
DEFINITION. The bit-vector widths of the SCP block (00_scope.md R13, R15): bytes, 16-bit fields, and
the 12-bit command word with its 4-bit operation code (30_encoding.md R80). All values are unsigned.
-/

namespace Sys2Proof

/-- A byte: SOF, SEQ, CRC8, a payload byte, the CRC-8 accumulator (00_scope.md R13). -/
abbrev Byte := BitVec 8

/-- A 16-bit field: DLEN, CMD, CRC16, the CRC-16 accumulator (00_scope.md R13). -/
abbrev Half := BitVec 16

/-- The operation code `op[3:0]` (30_encoding.md R80). -/
abbrev OpCode := BitVec 4

/-- The command word `cw[11:0]` (30_encoding.md R80). -/
abbrev CmdWord := BitVec 12

end Sys2Proof
end

