-- ==== Sys2Proof/Config.lean ====
section
/-!
DEFINITION. The configuration vector `CFG` (00_scope.md R8 to R12, 10_state.md R30) and the one value
the spec leaves free (the contents of `rx_buf` at reset, 10_state.md R35).
-/

namespace Sys2Proof

/-- A set of 16-bit command ids written as plain data: every id but the exceptions, or no id but the
exceptions. Any subset of 0x0000..0xFFFF has such a form. DESIGN CHOICE, safe (log 3). -/
structure IdSet where
  everyId    : Bool
  exceptions : List Half
  deriving DecidableEq, Repr

/-- `CFG`, constant from one reset to the next; no operation writes it (10_state.md R30). The model
carries it in a field of the state. DESIGN CHOICE, safe (log 1). -/
structure Config where
  /-- `CFG.SOF`, the start-of-frame marker (00_scope.md R8). -/
  sof          : Byte
  /-- `CFG.DUP_SUPPRESS` (00_scope.md R9). -/
  dupSuppress  : Bool
  /-- `CFG.MAX_DLEN`, the capacity of `rx_buf` in bytes (00_scope.md R10). -/
  maxDlen      : Half
  /-- `CFG.SUBSCRIBED`, the command ids that have a subscriber (00_scope.md R11). -/
  subscribed   : IdSet
  /-- `CFG.PREV_SEQ_RESET`, what `rx_prev_seq` takes at reset (00_scope.md R12). -/
  prevSeqReset : Byte
  deriving DecidableEq, Repr

/-- `CFG` of the machine right after power-on: SOF and DUP_SUPPRESS are the spec's defaults
(00_scope.md R8, R9). The other three are OPEN in the spec: MAX_DLEN and PREV_SEQ_RESET take the
suggested defaults (R10, R12), SUBSCRIBED holds every id as in the conventions of 95_test_vectors.md.
DESIGN CHOICE, unsafe (log 2). -/
def Config.default : Config where
  sof          := 0x05#8
  dupSuppress  := false
  maxDlen      := 65535#16
  subscribed   := { everyId := true, exceptions := [] }
  prevSeqReset := 0xFF#8

/-- FREE VALUE: what byte `i` of `rx_buf` holds while nothing has written it since power-on. The spec
gives it no value (10_state.md R35; 93_implementation_defined.md U17 "any value"). Log 7. -/
opaque Config.rxBufPowerOn : Nat → Byte

end Sys2Proof
end

