-- ==== Sys2Proof/Syntax.lean ====
section
/-!
DEFINITION. The syntax of the SCP block's operations, whole: one constructor for each row of
spec/opcode_table.json (30_encoding.md R80 to R84), the form in which an operation is handed to the
block (command word and operands by value), and the seven receiver states that select the sub-forms of
RX.BYTE (30_encoding.md R83).
-/

namespace Sys2Proof

/-- The receiver's states, in the order of the source's cycle (10_state.md R27). Code 7 is written by
no rule and has no constructor (93_implementation_defined.md U19). -/
inductive RxState where
  | sof | dlen | seq | crc8 | cmd | data | crc16
  deriving DecidableEq, Repr

/-- An operation as the environment hands it to the block: the 12-bit command word and, beside it, the
operands that are passed by value (30_encoding.md R80, R81). A format reads the operands it names and
ignores the others. How operands travel is not in the spec. DESIGN CHOICE, safe (log 6). -/
structure Issue where
  /-- `cw[11:0] = (op, arg)`. -/
  cw    : CmdWord
  /-- The `cmd` operand of format T. -/
  cmd   : Half
  /-- The `N` operand of format P. -/
  n     : Half
  /-- The byte sequence of formats S and P, the payload of format T. -/
  bytes : List Byte
  deriving DecidableEq, Repr

/-- The operations, one constructor for each row of the operation table. The `arg` field of formats Z,
S, T and P is ignored (30_encoding.md R81), so those constructors do not carry it. -/
inductive Instr where
  /-- CRC8.INIT, op 0x0, format Z (40_crc.md R111). -/
  | crc8Init
  /-- CRC8.FEED b, op 0x1, format B (R112). -/
  | crc8Feed (b : Byte)
  /-- CRC8.VALUE, op 0x2, format Z (R113). -/
  | crc8Value
  /-- CRC8.COMPUTE s, op 0x3, format S (R114). -/
  | crc8Compute (bs : List Byte)
  /-- CRC16.INIT, op 0x4, format Z (R117). -/
  | crc16Init
  /-- CRC16.FEED b, op 0x5, format B (R118). -/
  | crc16Feed (b : Byte)
  /-- CRC16.VALUE, op 0x6, format Z (R119). -/
  | crc16Value
  /-- CRC16.COMPUTE s, op 0x7, format S (R120). -/
  | crc16Compute (bs : List Byte)
  /-- TX.BUILD cmd, p, op 0x8, format T (41_frame_codec.md R130). -/
  | txBuild (cmd : Half) (p : List Byte)
  /-- VAL.PARSE N, s, op 0x9, format P (R136). -/
  | valParse (n : Half) (bs : List Byte)
  /-- RX.BYTE b, op 0xA, format B (42_receiver.md R153). -/
  | rxByte (b : Byte)
  /-- RX.BYTE@SOF, selected when rx_state = 0 (R154). -/
  | rxByteSof (b : Byte)
  /-- RX.BYTE@DLEN, selected when rx_state = 1 (R156). -/
  | rxByteDlen (b : Byte)
  /-- RX.BYTE@SEQ, selected when rx_state = 2 (R158). -/
  | rxByteSeq (b : Byte)
  /-- RX.BYTE@CRC8, selected when rx_state = 3 (R160). -/
  | rxByteCrc8 (b : Byte)
  /-- RX.BYTE@CMD, selected when rx_state = 4 (R162). -/
  | rxByteCmd (b : Byte)
  /-- RX.BYTE@DATA, selected when rx_state = 5 (R164). -/
  | rxByteData (b : Byte)
  /-- RX.BYTE@CRC16, selected when rx_state = 6 (R166). -/
  | rxByteCrc16 (b : Byte)
  /-- RX.ABORT, op 0xB, format Z (R172). -/
  | rxAbort
  /-- Operation code 0xC, reserved (30_encoding.md R84). -/
  | reservedC
  /-- Operation code 0xD, reserved (R84). -/
  | reservedD
  /-- Operation code 0xE, reserved (R84). -/
  | reservedE
  /-- SYS.RESET, op 0xF, format Z (70_reset_and_hazards.md R220). -/
  | sysReset
  deriving DecidableEq, Repr

/-- Why the decoder rejects an issued operation. -/
inductive DecodeError where
  /-- TX.BUILD with a payload longer than 65535 bytes, which the 16-bit length of the operand cannot
  express (41_frame_codec.md R132; 93_implementation_defined.md U22 "refuse"). -/
  | payloadTooLong
  /-- An operation code outside 0x0..0xF: no 4-bit code is one, the name only makes the decoder's
  case list total. -/
  | noSuchCode
  deriving DecidableEq, Repr

end Sys2Proof
end

