-- ==== Sys2Proof/WellFormed.lean ====
section
/-!
DEFINITION. Which operations the interface can express (30_encoding.md R80, R81). There is one check:
the payload of TX.BUILD has at most 65535 bytes (41_frame_codec.md R132).
-/

namespace Sys2Proof

/-- The longest payload the 16-bit length of TX.BUILD's operand can express (30_encoding.md R81). -/
def maxPayload : Nat := 65535

/-- The operation's operands fit the interface (30_encoding.md R81). -/
def Instr.wf : Instr → Bool
  | .crc8Init        => true
  | .crc8Feed _      => true
  | .crc8Value       => true
  | .crc8Compute _   => true
  | .crc16Init       => true
  | .crc16Feed _     => true
  | .crc16Value      => true
  | .crc16Compute _  => true
  | .txBuild _ p     => decide (p.length ≤ maxPayload)
  | .valParse _ _    => true
  | .rxByte _        => true
  | .rxByteSof _     => true
  | .rxByteDlen _    => true
  | .rxByteSeq _     => true
  | .rxByteCrc8 _    => true
  | .rxByteCmd _     => true
  | .rxByteData _    => true
  | .rxByteCrc16 _   => true
  | .rxAbort         => true
  | .reservedC       => true
  | .reservedD       => true
  | .reservedE       => true
  | .sysReset        => true

end Sys2Proof
end

