-- ==== Sys2Proof/Decode.lean ====
section
/-!
DEFINITION. Decoding of an issued operation (30_encoding.md R80, R81, R84), the selection of RX.BYTE's
sub-form by `rx_state` (R83), the encoder written from the same table, and the host's reading of a
table word.
-/

namespace Sys2Proof

/-- `op = cw[11:8]` (30_encoding.md R80). -/
def Issue.op (o : Issue) : OpCode := o.cw.extractLsb' 8 4

/-- `arg = cw[7:0]` (30_encoding.md R80). -/
def Issue.arg (o : Issue) : Byte := o.cw.extractLsb' 0 8

/-- The decoder: one case for each operation code, the reserved ones among them (30_encoding.md R80,
R84). `arg` is read in format B only (R81). RX.BYTE is not resolved to a sub-form here: the sub-forms
share its code (R83, see `decodeIn`). -/
def decode (o : Issue) : Except DecodeError Instr :=
  match o.op.toNat with
  | 0x0 => .ok .crc8Init
  | 0x1 => .ok (.crc8Feed o.arg)
  | 0x2 => .ok .crc8Value
  | 0x3 => .ok (.crc8Compute o.bytes)
  | 0x4 => .ok .crc16Init
  | 0x5 => .ok (.crc16Feed o.arg)
  | 0x6 => .ok .crc16Value
  | 0x7 => .ok (.crc16Compute o.bytes)
  | 0x8 => if o.bytes.length ≤ maxPayload then .ok (.txBuild o.cmd o.bytes) else .error .payloadTooLong
  | 0x9 => .ok (.valParse o.n o.bytes)
  | 0xA => .ok (.rxByte o.arg)
  | 0xB => .ok .rxAbort
  | 0xC => .ok .reservedC
  | 0xD => .ok .reservedD
  | 0xE => .ok .reservedE
  | 0xF => .ok .sysReset
  | _   => .error .noSuchCode

/-- The sub-form of RX.BYTE that a receiver state selects (30_encoding.md R83). -/
def RxState.subForm : RxState → Byte → Instr
  | .sof,   b => .rxByteSof b
  | .dlen,  b => .rxByteDlen b
  | .seq,   b => .rxByteSeq b
  | .crc8,  b => .rxByteCrc8 b
  | .cmd,   b => .rxByteCmd b
  | .data,  b => .rxByteData b
  | .crc16, b => .rxByteCrc16 b

/-- The block's only mode-dependent decoding: RX.BYTE becomes the sub-form the state selects, every
other operation stays itself (30_encoding.md R83). -/
def Instr.select (st : RxState) : Instr → Instr
  | .rxByte b => st.subForm b
  | i         => i

/-- Decoding with the receiver's state at hand (30_encoding.md R83). -/
def decodeIn (st : RxState) (o : Issue) : Except DecodeError Instr := (decode o).map (Instr.select st)

/-- The code of a receiver state (10_state.md R27). -/
def RxState.code : RxState → BitVec 3
  | .sof => 0#3 | .dlen => 1#3 | .seq => 2#3 | .crc8 => 3#3 | .cmd => 4#3 | .data => 5#3 | .crc16 => 6#3

/-- The operation code of each row (30_encoding.md R80; the sub-forms share RX.BYTE's, R83). -/
def Instr.opCode : Instr → OpCode
  | .crc8Init        => 0x0#4
  | .crc8Feed _      => 0x1#4
  | .crc8Value       => 0x2#4
  | .crc8Compute _   => 0x3#4
  | .crc16Init       => 0x4#4
  | .crc16Feed _     => 0x5#4
  | .crc16Value      => 0x6#4
  | .crc16Compute _  => 0x7#4
  | .txBuild _ _     => 0x8#4
  | .valParse _ _    => 0x9#4
  | .rxByte _        => 0xA#4
  | .rxByteSof _     => 0xA#4
  | .rxByteDlen _    => 0xA#4
  | .rxByteSeq _     => 0xA#4
  | .rxByteCrc8 _    => 0xA#4
  | .rxByteCmd _     => 0xA#4
  | .rxByteData _    => 0xA#4
  | .rxByteCrc16 _   => 0xA#4
  | .rxAbort         => 0xB#4
  | .reservedC       => 0xC#4
  | .reservedD       => 0xD#4
  | .reservedE       => 0xE#4
  | .sysReset        => 0xF#4

/-- What the encoder puts in `arg`: the byte operand of format B, and 0 where `arg` is ignored
(30_encoding.md R81). -/
def Instr.argByte : Instr → Byte
  | .crc8Feed b | .crc16Feed b | .rxByte b | .rxByteSof b | .rxByteDlen b | .rxByteSeq b | .rxByteCrc8 b
  | .rxByteCmd b | .rxByteData b | .rxByteCrc16 b => b
  | .crc8Init | .crc8Value | .crc8Compute _ | .crc16Init | .crc16Value | .crc16Compute _ | .txBuild _ _
  | .valParse _ _ | .rxAbort | .reservedC | .reservedD | .reservedE | .sysReset => 0#8

/-- The byte sequence passed beside the command word (formats S, T and P, 30_encoding.md R81). -/
def Instr.operandBytes : Instr → List Byte
  | .crc8Compute bs | .crc16Compute bs | .txBuild _ bs | .valParse _ bs => bs
  | .crc8Init | .crc8Feed _ | .crc8Value | .crc16Init | .crc16Feed _ | .crc16Value | .rxByte _ | .rxByteSof _
  | .rxByteDlen _ | .rxByteSeq _ | .rxByteCrc8 _ | .rxByteCmd _ | .rxByteData _ | .rxByteCrc16 _ | .rxAbort
  | .reservedC | .reservedD | .reservedE | .sysReset => []

/-- The `cmd` operand of format T (30_encoding.md R81). -/
def Instr.operandCmd : Instr → Half
  | .txBuild cmd _ => cmd
  | .crc8Init | .crc8Feed _ | .crc8Value | .crc8Compute _ | .crc16Init | .crc16Feed _ | .crc16Value
  | .crc16Compute _ | .valParse _ _ | .rxByte _ | .rxByteSof _ | .rxByteDlen _ | .rxByteSeq _ | .rxByteCrc8 _
  | .rxByteCmd _ | .rxByteData _ | .rxByteCrc16 _ | .rxAbort | .reservedC | .reservedD | .reservedE
  | .sysReset => 0#16

/-- The `N` operand of format P (30_encoding.md R81). -/
def Instr.operandN : Instr → Half
  | .valParse n _ => n
  | .crc8Init | .crc8Feed _ | .crc8Value | .crc8Compute _ | .crc16Init | .crc16Feed _ | .crc16Value
  | .crc16Compute _ | .txBuild _ _ | .rxByte _ | .rxByteSof _ | .rxByteDlen _ | .rxByteSeq _ | .rxByteCrc8 _
  | .rxByteCmd _ | .rxByteData _ | .rxByteCrc16 _ | .rxAbort | .reservedC | .reservedD | .reservedE
  | .sysReset => 0#16

/-- The encoder: command word `(op, arg)` and the operands beside it (30_encoding.md R80, R81). -/
def encode (i : Instr) : Issue where
  cw    := i.opCode ++ i.argByte
  cmd   := i.operandCmd
  n     := i.operandN
  bytes := i.operandBytes

/-- The operation a sub-form is a form of: RX.BYTE for the seven sub-forms, itself for every other
operation (30_encoding.md R83). -/
def Instr.command : Instr → Instr
  | .rxByteSof b | .rxByteDlen b | .rxByteSeq b | .rxByteCrc8 b | .rxByteCmd b | .rxByteData b
  | .rxByteCrc16 b => .rxByte b
  | i => i

/-- The operation issued with command word `w` and operands of zeros: `cmd` and `N` zero, the byte
sequence empty. Bits of `w` above `cw[11]` are no part of a command word. Log 6. -/
def Issue.ofWord (w : Nat) : Issue where
  cw    := BitVec.ofNat 12 w
  cmd   := 0#16
  n     := 0#16
  bytes := []

/-- The instruction the decoder reads from a table word `w`. The table gives every row the 12 bits of
the command word, which the host counts in whole bytes, so bits 15..12 are padding and not read. -/
def decodeTableWord (_nbits w : Nat) : Option Instr := (decode (Issue.ofWord w)).toOption

end Sys2Proof
end

