-- ==== Sys2Proof/Machine/State.lean ====
section
/-!
DEFINITION. The state of the SCP block (10_state.md R20), as plain data, what an operation returns
(30_encoding.md R82, 60_exceptions.md R190), the reasons a step can stop, and the machine right after
reset (70_reset_and_hazards.md R220).
-/

namespace Sys2Proof.Machine

/-- The block's one memory, `rx_buf` (10_state.md R34): the bytes written so far, by index, indices
strictly rising. An index that is not listed holds no written byte (log 7). -/
abbrev Memory := List Host.Cell

/-- The event an RX.BYTE returns (60_exceptions.md R190). -/
inductive Event where
  | none
  | badSof
  | dlenOverflow
  | crc8Mismatch
  | crc16Mismatch
  | duplicate
  | unknownCmd (cmd dlen : Half)
  | dispatch (cmd : Half) (payload : List Byte)
  deriving DecidableEq, Repr

/-- The diagnostic reason beside VAL.PARSE's result (41_frame_codec.md R138). -/
inductive ParseReason where
  | ok | len | sof | dlen | crc8 | crc16
  deriving DecidableEq, Repr

/-- What one operation returns (30_encoding.md R82). -/
inductive Output where
  /-- No result and no event: the operation's event output is EV_NONE (00_scope.md R17). -/
  | none
  /-- The result of CRC8.VALUE and CRC8.COMPUTE. -/
  | crc8 (v : Byte)
  /-- The result of CRC16.VALUE and CRC16.COMPUTE. -/
  | crc16 (v : Half)
  /-- The frame TX.BUILD returns. -/
  | frame (f : List Byte)
  /-- VAL.PARSE's `None` or `Some(cmd, payload)`, and the reason code. -/
  | parsed (r : Option (Half × List Byte)) (reason : ParseReason)
  /-- The event RX.BYTE returns. -/
  | event (e : Event)
  deriving DecidableEq, Repr

/-- The receiver's registers, its flag, its private CRC accumulators and its buffer (10_state.md R20,
R24 to R29, R32 to R35). -/
structure Rx where
  /-- `rx_state` (R27). -/
  state      : RxState
  /-- `rx_offset`, bytes of the current field already consumed (R28). -/
  offset     : Half
  /-- `rx_dlen` (R24). -/
  dlen       : Half
  /-- `rx_seq` (R25). -/
  seq        : Byte
  /-- `rx_prev_seq` (R26). -/
  prevSeq    : Byte
  /-- `rx_abandon`, the block's one flag (R29). -/
  abandon    : Bool
  /-- `rx_cmd` (R24). -/
  cmd        : Half
  /-- `rx_crc16_value` (R24). -/
  crc16Value : Half
  /-- `rx_c8_acc` (R32, R33). -/
  c8Acc      : Byte
  /-- `rx_c16_acc` (R32, R33). -/
  c16Acc     : Half
  /-- `rx_buf` (R34, R35). -/
  buf        : Memory
  deriving DecidableEq, Repr

/-- The whole machine: the architectural state of 10_state.md R20, the parameter vector `CFG`, and the
model's own two lists, the operations that wait and the results returned. -/
structure State where
  /-- `CFG`: a parameter, written by no operation (10_state.md R30; log 1). -/
  cfg     : Config
  /-- `c8_acc`, the host-visible CRC-8 iterator (R20, R32). -/
  c8Acc   : Byte
  /-- `c16_acc`, the host-visible CRC-16 iterator (R20, R32). -/
  c16Acc  : Half
  /-- `tx_seq`, the SEQ of the next built frame (R20, R23). -/
  txSeq   : Byte
  /-- The receiver's elements (R20). -/
  rx      : Rx
  /-- MODEL's own: operations the environment has issued, in arrival order. DESIGN CHOICE (log 4). -/
  issue   : List Issue
  /-- MODEL's own: what each operation executed so far returned, oldest first. DESIGN CHOICE (log 5). -/
  outputs : List Output
  deriving DecidableEq, Repr

/-- Why a step faults. The spec has no fault (60_exceptions.md R202). -/
inductive Fault where
  /-- An access to `rx_buf` at an index at or above `CFG.MAX_DLEN`, which does not exist (20_memory.md
  R56). Raised by RX.BYTE@DATA and by the dispatch of RX.BYTE@CRC16, only in states outside
  10_state.md R37. Safe: the machine stops (log 8). -/
  | rxBufIndex (index : Nat)
  deriving DecidableEq, Repr

/-- Why a step refuses an operation. -/
inductive Refusal where
  /-- Raised by `exec` for an instruction that has no meaning in the model. No arm does so. Safe. -/
  | notModelled (mnemonic : String)
  /-- Raised by the three reserved operation codes: "refused: no state changes, no result, no event"
  (30_encoding.md R84). Safe. -/
  | reservedCode (op : OpCode)
  /-- Raised by TX.BUILD with a payload of more than 65535 bytes, which the interface cannot express
  (41_frame_codec.md R132, 93_implementation_defined.md U22). Safe (log 11). -/
  | payloadTooLong
  /-- Raised by a sub-form of RX.BYTE in a state that does not select it (30_encoding.md R83). No
  command word decodes to such a pair, so no step raises it. Safe (log 9). -/
  | subFormNotSelected (selected : RxState)
  /-- Raised by `step` for an issued operation the decoder rejects. Safe. -/
  | undecodable (e : DecodeError)
  deriving DecidableEq, Repr

/-- The receiver right after reset (70_reset_and_hazards.md R220): hunting for SOF, `rx_prev_seq` at
`CFG.PREV_SEQ_RESET`, the accumulators seeded, nothing written to `rx_buf` (10_state.md R35). -/
def Rx.reset (cfg : Config) : Rx where
  state      := .sof
  offset     := 0#16
  dlen       := 0#16
  seq        := 0x00#8
  prevSeq    := cfg.prevSeqReset
  abandon    := false
  cmd        := 0#16
  crc16Value := 0#16
  c8Acc      := 0xFF#8
  c16Acc     := 0xFFFF#16
  buf        := []

/-- The machine right after reset with configuration `cfg` (70_reset_and_hazards.md R220, R223). -/
def State.resetWith (cfg : Config) : State where
  cfg     := cfg
  c8Acc   := 0xFF#8
  c16Acc  := 0xFFFF#16
  txSeq   := 0x00#8
  rx      := Rx.reset cfg
  issue   := []
  outputs := []

/-- The machine right after reset (70_reset_and_hazards.md R220), with the configuration of log 2. -/
def State.reset : State := State.resetWith Config.default

end Sys2Proof.Machine
end

