-- ==== Sys2Proof/Machine/CrcCore.lean ====
section
/-!
DEFINITION. The functions of the CRC unit, used by its operations, by the frame codec and by the
receiver: bit reversal, the per-byte update, the finalisation and the one-shot form (40_crc.md R100 to
R107), and the equivalent least-significant-bit-first form (R110). They are used at widths 8 and 16
only (R109).
-/

namespace Sys2Proof.Machine

/-- CRC-8's polynomial without its top term (40_crc.md R100). -/
def poly8 : Byte := 0x31#8

/-- CRC-8's initial value (R100). -/
def init8 : Byte := 0xFF#8

/-- CRC-8's final XOR (R100). -/
def xorOut8 : Byte := 0x00#8

/-- CRC-16's polynomial without its top term (R101). -/
def poly16 : Half := 0x1021#16

/-- CRC-16's initial value (R101). -/
def init16 : Half := 0xFFFF#16

/-- CRC-16's final XOR (R101). -/
def xorOut16 : Half := 0x0000#16

/-- `reflect_n(v)`: bit `i` of the result is bit `n-1-i` of `v` (40_crc.md R103). -/
def reflect {n : Nat} (v : BitVec n) : BitVec n := v.reverse

/-- One of the eight steps of the per-byte update: the top bit is tested before the shift (R104). -/
def crcShift {w : Nat} (poly a : BitVec w) : BitVec w :=
  if a.msb then (a <<< 1) ^^^ poly else a <<< 1

/-- `k` steps (R104). -/
def crcShifts {w : Nat} (poly : BitVec w) : Nat → BitVec w → BitVec w
  | 0,     a => a
  | k + 1, a => crcShifts poly k (crcShift poly a)

/-- `feed_W(acc, b)`: the reflected byte lands in the top of the accumulator, then eight steps (R104). -/
def crcFeed {w : Nat} (poly acc : BitVec w) (b : Byte) : BitVec w :=
  crcShifts poly 8 (acc ^^^ ((reflect b).setWidth w <<< (w - 8)))

/-- `value_W(acc)`: the remainder reflected, then the final XOR (R105). -/
def crcValue {w : Nat} (xorOut acc : BitVec w) : BitVec w := reflect acc ^^^ xorOut

/-- `feed_8` (R104). -/
def feed8 (acc : Byte) (b : Byte) : Byte := crcFeed poly8 acc b

/-- `feed_16` (R104). -/
def feed16 (acc : Half) (b : Byte) : Half := crcFeed poly16 acc b

/-- `value_8` (R105). -/
def value8 (acc : Byte) : Byte := crcValue xorOut8 acc

/-- `value_16` (R105). -/
def value16 (acc : Half) : Half := crcValue xorOut16 acc

/-- The accumulator of a CRC-8 iterator after it has been fed `s` in order, starting from `acc` (R106). -/
def feedAll8 (acc : Byte) (bs : List Byte) : Byte := bs.foldl feed8 acc

/-- The accumulator of a CRC-16 iterator after it has been fed `s` in order, starting from `acc` (R106). -/
def feedAll16 (acc : Half) (bs : List Byte) : Half := bs.foldl feed16 acc

/-- `crc8(s)`: a fresh iterator, fed each byte, finalised (R106). -/
def crc8 (bs : List Byte) : Byte := value8 (feedAll8 init8 bs)

/-- `crc16(s)` (R106). -/
def crc16 (bs : List Byte) : Half := value16 (feedAll16 init16 bs)

/-- One step of the least-significant-bit-first form (R110). -/
def lsbShift {w : Nat} (polyR r : BitVec w) : BitVec w :=
  if r.getLsbD 0 then (r >>> 1) ^^^ polyR else r >>> 1

/-- `k` steps of the least-significant-bit-first form (R110). -/
def lsbShifts {w : Nat} (polyR : BitVec w) : Nat → BitVec w → BitVec w
  | 0,     r => r
  | k + 1, r => lsbShifts polyR k (lsbShift polyR r)

/-- The per-byte update of the least-significant-bit-first form: the byte enters un-reflected (R110). -/
def lsbFeed {w : Nat} (polyR r : BitVec w) (b : Byte) : BitVec w := lsbShifts polyR 8 (r ^^^ b.setWidth w)

/-- `POLYR` of CRC-8, the reflected polynomial 0x8C (R110). -/
def polyR8 : Byte := reflect poly8

/-- `POLYR` of CRC-16, the reflected polynomial 0x8408 (R110). -/
def polyR16 : Half := reflect poly16

/-- `crc_8` in the least-significant-bit-first form (R110). -/
def crc8Lsb (bs : List Byte) : Byte := bs.foldl (lsbFeed polyR8) init8

/-- `crc_16` in the least-significant-bit-first form (R110). -/
def crc16Lsb (bs : List Byte) : Half := bs.foldl (lsbFeed polyR16) init16

/-- `T8[i]`: the eight steps on `r = i` (R110). -/
def table8 (i : Byte) : Byte := lsbShifts polyR8 8 i

/-- `T16[i]`: the eight steps on `r = i` (R110). -/
def table16 (i : Byte) : Half := lsbShifts polyR16 8 (i.setWidth 16)

end Sys2Proof.Machine
end

