-- ==== Sys2Proof/Machine/Operands.lean ====
section
/-!
DEFINITION. Operand forms: little-endian assembly and disassembly of 16-bit fields (00_scope.md R16,
20_memory.md R51, 30_encoding.md R74), byte sequences by offset (00_scope.md R16), and membership of
`CFG.SUBSCRIBED` (00_scope.md R11).
-/

namespace Sys2Proof.Machine

/-- `le16(lo, hi) = lo + 256*hi`: the byte that comes first on the wire is bits 7..0 (00_scope.md R16). -/
def le16 (lo hi : Byte) : Half := hi ++ lo

/-- `v[7:0]`, the byte that goes first on the wire (30_encoding.md R74). -/
def loByte (v : Half) : Byte := v.extractLsb' 0 8

/-- `v[15:8]`, the byte that goes second on the wire (30_encoding.md R74). -/
def hiByte (v : Half) : Byte := v.extractLsb' 8 8

/-- `zext_16(b)` (00_scope.md R17). -/
def zext16 (b : Byte) : Half := b.setWidth 16

/-- `s[i]`, read only at offsets that exist (30_encoding.md R75: the length is tested first). -/
def byteAt (bs : List Byte) (i : Nat) : Byte := bs.getD i 0#8

/-- The `n` bytes of `s` from offset `i` on, `s[i..i+n-1]` (00_scope.md R16). -/
def slice (bs : List Byte) (i n : Nat) : List Byte := (bs.drop i).take n

/-- `CFG.SUBSCRIBED(cmd)` (00_scope.md R11). -/
def subscribed (cfg : Config) (cmd : Half) : Bool :=
  if cmd ∈ cfg.subscribed.exceptions then !cfg.subscribed.everyId else cfg.subscribed.everyId

end Sys2Proof.Machine
end

