-- ==== Sys2Proof/Machine/Ops.lean ====
section
/-!
DEFINITION. The named operations over memory and registers: `rx_buf` (10_state.md R34, 20_memory.md
R50 to R56), the receiver's clearing, seeding and feeding (42_receiver.md R151, R152), the drop of the
frame in progress, which stands where a processor takes an exception (60_exceptions.md R202), reset
(70_reset_and_hazards.md R220), and how an operation is taken from the environment and its result
handed back (30_encoding.md R82).
-/

namespace Sys2Proof.Machine

/-! ### The payload buffer -/

/-- The canonical form of `rx_buf`: indices strictly rising. An unlisted index holds no written byte,
so no entry repeats what an unlisted index reads as (log 7). -/
abbrev Memory.wf (m : Memory) : Prop := m.Pairwise (fun x y => x.1 < y.1)

/-- The byte last written at index `i`, or none where nothing has been written since power-on. -/
def Memory.read : Memory → Nat → Option Byte
  | [],          _ => none
  | (k, v) :: m, i => if k = i then some v else Memory.read m i

/-- `MemWrite(rx_buf, i, 1, v)` (00_scope.md R17), keeping the canonical form. -/
def Memory.write : Memory → Nat → Byte → Memory
  | [],          i, v => [(i, v)]
  | (k, x) :: m, i, v =>
    if i < k then (i, v) :: (k, x) :: m
    else if i = k then (i, v) :: m
    else (k, x) :: Memory.write m i v

/-- `MemRead(rx_buf, i, 1)` (00_scope.md R17): a byte never written since power-on is a FREE VALUE
(10_state.md R35; 93_implementation_defined.md U17; log 7). -/
def Memory.byte (m : Memory) (i : Nat) : Byte := (m.read i).getD (Config.rxBufPowerOn i)

/-- `rx_buf[0 .. n-1]` (42_receiver.md R168). -/
def Memory.firstBytes (m : Memory) (n : Nat) : List Byte := (List.range n).map m.byte

/-! ### The receiver's registers -/

/-- `rx_clear()` (42_receiver.md R151). It does not change `rx_state`. -/
def Rx.clear (r : Rx) : Rx :=
  { r with offset := 0#16, dlen := 0#16, cmd := 0#16, crc16Value := 0#16, abandon := false }

/-- The end of the frame in progress, whatever the reason: `rx_clear()` and `rx_state <- SOF`
(42_receiver.md R156, R160, R166, R172; 60_exceptions.md R202 "There is no trap entry"). Nothing is
saved and there is no return operation (R203). -/
def Rx.dropFrame (r : Rx) : Rx := { r.clear with state := .sof }

/-- Both iterators re-seeded (42_receiver.md R154). -/
def Rx.seed (r : Rx) : Rx := { r with c8Acc := init8, c16Acc := init16 }

/-- `feed_both(b)` (42_receiver.md R152). -/
def Rx.feedBoth (r : Rx) (b : Byte) : Rx :=
  { r with c8Acc := feed8 r.c8Acc b, c16Acc := feed16 r.c16Acc b }

/-- SYS.RESET's effect on the receiver: every register, `rx_buf` not written (70_reset_and_hazards.md
R220). -/
def Rx.resetRegs (cfg : Config) (r : Rx) : Rx := { Rx.reset cfg with buf := r.buf }

/-- SYS.RESET's effect: every register of the three units; `rx_buf` and `CFG` are not written
(70_reset_and_hazards.md R220). The model's two lists belong to the environment and stay. -/
def State.resetRegs (s : State) : State :=
  { s with c8Acc := init8, c16Acc := init16, txSeq := 0x00#8, rx := s.rx.resetRegs s.cfg }

/-! ### Results -/

/-- The operation returns `o` (30_encoding.md R82; log 5). -/
def State.emit (s : State) (o : Output) : State := { s with outputs := s.outputs ++ [o] }

/-- The operation completes with result `o`. -/
def State.done (s : State) (o : Output) : Host.Outcome State Fault Refusal := .next (s.emit o)

/-- What a receiver sub-form gives: the receiver afterwards and the event, or the one fault. -/
abbrev RxResult := Except Fault (Rx × Event)

/-- An RX.BYTE completes: the receiver is replaced and the event returned (42_receiver.md R150). -/
def State.finishRx (s : State) : RxResult → Host.Outcome State Fault Refusal
  | .ok (r, e) => { s with rx := r }.done (.event e)
  | .error f   => .fault f

/-- A sub-form runs where `rx_state` selects it, and is refused elsewhere (30_encoding.md R83; log 9). -/
def State.finishSubForm (s : State) (st : RxState) (res : RxResult) : Host.Outcome State Fault Refusal :=
  if s.rx.state = st then s.finishRx res else .refused (.subFormNotSelected s.rx.state)

/-! ### Taking an operation -/

/-- The next operation the environment has issued, and the state without it; none where no operation
waits (log 4). -/
def State.fetch (s : State) : Option (Issue × State) :=
  match s.issue with
  | []        => none
  | o :: rest => some (o, { s with issue := rest })

/-- The word `w`, with operands of zeros, becomes the next operation the block takes (log 4, log 6). -/
def State.issueWord (s : State) (w : Nat) : State := { s with issue := Issue.ofWord w :: s.issue }

end Sys2Proof.Machine
end

