-- ==== Sys2Proof/Machine/Codec.lean ====
section
/-!
DEFINITION. The frame codec: TX.BUILD and VAL.PARSE (41_frame_codec.md R130 to R139) over the frame
layout of 30_encoding.md R70.
-/

namespace Sys2Proof.Machine

/-- Frame bytes 0..3: SOF, DLEN low byte first, SEQ (30_encoding.md R70; 41_frame_codec.md R130 step 1). -/
def frameHeader (sof seq : Byte) (n : Half) : List Byte := [sof, loByte n, hiByte n, seq]

/-- Frame bytes 0..6+N: the header, its CRC8, CMD low byte first, the payload (R130 steps 1 to 4). -/
def frameBody (sof seq : Byte) (cmd : Half) (p : List Byte) : List Byte :=
  let header := frameHeader sof seq (BitVec.ofNat 16 p.length)
  header ++ [crc8 header] ++ [loByte cmd, hiByte cmd] ++ p

/-- The whole frame: the body and its CRC16, low byte first (R130 step 5). -/
def buildFrame (sof seq : Byte) (cmd : Half) (p : List Byte) : List Byte :=
  let body := frameBody sof seq cmd p
  body ++ [loByte (crc16 body), hiByte (crc16 body)]

/-- `valid_frame(s, N, sof)` (30_encoding.md R75). -/
abbrev validFrame (bs : List Byte) (n : Half) (sof : Byte) : Prop :=
  bs.length = n.toNat + 9 ∧
  byteAt bs 0 = sof ∧
  le16 (byteAt bs 1) (byteAt bs 2) = n ∧
  byteAt bs 4 = crc8 (slice bs 0 4) ∧
  le16 (byteAt bs (7 + n.toNat)) (byteAt bs (8 + n.toNat)) = crc16 (slice bs 0 (7 + n.toNat))

/-- The CMD field of a frame (30_encoding.md R74). -/
def frameCmd (bs : List Byte) : Half := le16 (byteAt bs 5) (byteAt bs 6)

/-- The payload of a frame of payload length `n` (30_encoding.md R74). -/
def framePayload (bs : List Byte) (n : Nat) : List Byte := slice bs 7 n

/-- The first failing test of VAL.PARSE, in the rule's order (41_frame_codec.md R136, R138). -/
def parseReason (sof : Byte) (n : Half) (bs : List Byte) : ParseReason :=
  if bs.length ≠ n.toNat + 9 then .len
  else if byteAt bs 0 ≠ sof then .sof
  else if le16 (byteAt bs 1) (byteAt bs 2) ≠ n then .dlen
  else if byteAt bs 4 ≠ crc8 (slice bs 0 4) then .crc8
  else if le16 (byteAt bs (7 + n.toNat)) (byteAt bs (8 + n.toNat)) ≠ crc16 (slice bs 0 (7 + n.toNat)) then .crc16
  else .ok

/-- VAL.PARSE's result (R136). -/
def parseFrame (sof : Byte) (n : Half) (bs : List Byte) : Option (Half × List Byte) :=
  match parseReason sof n bs with
  | .ok => some (frameCmd bs, framePayload bs n.toNat)
  | .len | .sof | .dlen | .crc8 | .crc16 => none

/-- The number of a reason (R138). -/
def ParseReason.code : ParseReason → Nat
  | .ok => 0 | .len => 1 | .sof => 2 | .dlen => 3 | .crc8 => 4 | .crc16 => 5

/-- TX.BUILD cmd, p: returns the frame stamped with `tx_seq`, then `tx_seq <- (tx_seq + 1) mod 256`
(R130). A payload the interface cannot express is refused (R132; log 11). -/
def execTxBuild (cmd : Half) (p : List Byte) (s : State) : Host.Outcome State Fault Refusal :=
  if p.length ≤ maxPayload then
    { s with txSeq := s.txSeq + 1#8 }.done (.frame (buildFrame s.cfg.sof s.txSeq cmd p))
  else .refused .payloadTooLong

/-- VAL.PARSE N, s: returns `None` or `Some(cmd, payload)` and the reason, writes no state (R136). -/
def execValParse (n : Half) (bs : List Byte) (s : State) : Host.Outcome State Fault Refusal :=
  s.done (.parsed (parseFrame s.cfg.sof n bs) (parseReason s.cfg.sof n bs))

end Sys2Proof.Machine
end

