-- ==== Sys2Proof/Machine/CrcUnit.lean ====
section
/-!
DEFINITION. The eight operations of the CRC unit (40_crc.md R111 to R120). None writes a flag, returns
an event or can fail.
-/

namespace Sys2Proof.Machine

/-- CRC8.INIT: `c8_acc <- 0xFF` (40_crc.md R111). -/
def execCrc8Init (s : State) : Host.Outcome State Fault Refusal := { s with c8Acc := init8 }.done .none

/-- CRC8.FEED b: `c8_acc <- feed_8(c8_acc, b)` (R112). -/
def execCrc8Feed (b : Byte) (s : State) : Host.Outcome State Fault Refusal :=
  { s with c8Acc := feed8 s.c8Acc b }.done .none

/-- CRC8.VALUE: returns `value_8(c8_acc)`, writes nothing (R113, R116). -/
def execCrc8Value (s : State) : Host.Outcome State Fault Refusal := s.done (.crc8 (value8 s.c8Acc))

/-- CRC8.COMPUTE s: returns `crc8(s)`, no state read or written (R114). -/
def execCrc8Compute (bs : List Byte) (s : State) : Host.Outcome State Fault Refusal := s.done (.crc8 (crc8 bs))

/-- CRC16.INIT: `c16_acc <- 0xFFFF` (R117). -/
def execCrc16Init (s : State) : Host.Outcome State Fault Refusal := { s with c16Acc := init16 }.done .none

/-- CRC16.FEED b: `c16_acc <- feed_16(c16_acc, b)` (R118). -/
def execCrc16Feed (b : Byte) (s : State) : Host.Outcome State Fault Refusal :=
  { s with c16Acc := feed16 s.c16Acc b }.done .none

/-- CRC16.VALUE: returns `value_16(c16_acc)`, writes nothing (R119, R116). -/
def execCrc16Value (s : State) : Host.Outcome State Fault Refusal := s.done (.crc16 (value16 s.c16Acc))

/-- CRC16.COMPUTE s: returns `crc16(s)`, no state read or written (R120). -/
def execCrc16Compute (bs : List Byte) (s : State) : Host.Outcome State Fault Refusal :=
  s.done (.crc16 (crc16 bs))

end Sys2Proof.Machine
end

