-- ==== Sys2Proof/Machine/Flags.lean ====
section
/-!
DEFINITION. The block's one flag, `rx_abandon`, and the register it is computed with, `rx_prev_seq`
(10_state.md R26, R29; 42_receiver.md R158). No operation reports arithmetic status.
-/

namespace Sys2Proof.Machine

/-- The duplicate policy of state SEQ: with `CFG.DUP_SUPPRESS = 1` a SEQ byte equal to `rx_prev_seq`
sets `rx_abandon`, any other is remembered; with 0 nothing happens (42_receiver.md R158). -/
def Rx.markDuplicate (cfg : Config) (r : Rx) (b : Byte) : Rx :=
  if cfg.dupSuppress then
    if b = r.prevSeq then { r with abandon := true } else { r with prevSeq := b }
  else r

end Sys2Proof.Machine
end

