-- ==== Sys2Proof/Machine/Receiver.lean ====
section
/-!
DEFINITION. The receiver: the seven sub-forms of RX.BYTE, RX.BYTE itself and RX.ABORT (42_receiver.md
R150 to R172), the codes of its events (60_exceptions.md R190), and the events of a run of bytes tagged
with their indices (30_encoding.md R89).
-/

namespace Sys2Proof.Machine

/-- The 3-bit code of an event (60_exceptions.md R190). -/
def Event.code : Event → BitVec 3
  | .none           => 0#3
  | .badSof         => 1#3
  | .dlenOverflow   => 2#3
  | .crc8Mismatch   => 3#3
  | .crc16Mismatch  => 4#3
  | .duplicate      => 5#3
  | .unknownCmd _ _ => 6#3
  | .dispatch _ _   => 7#3

/-- The payload of the frame in progress, `rx_buf[0 .. rx_dlen-1]`, indices that must exist
(42_receiver.md R168; 20_memory.md R56; log 8). -/
def Rx.payload (cfg : Config) (r : Rx) : Except Fault (List Byte) :=
  if r.dlen ≤ cfg.maxDlen then .ok (r.buf.firstBytes r.dlen.toNat)
  else .error (.rxBufIndex cfg.maxDlen.toNat)

/-- `frame_end_event()` (42_receiver.md R168; the order of the reasons is 60_exceptions.md R201). -/
def Rx.frameEndEvent (cfg : Config) (r : Rx) : Except Fault Event :=
  if value16 r.c16Acc ≠ r.crc16Value then .ok .crc16Mismatch
  else if r.abandon then .ok .duplicate
  else if !subscribed cfg r.cmd then .ok (.unknownCmd r.cmd r.dlen)
  else (r.payload cfg).map (Event.dispatch r.cmd)

/-- RX.BYTE@SOF (42_receiver.md R154). -/
def rxSof (cfg : Config) (r : Rx) (b : Byte) : RxResult :=
  if b = cfg.sof then .ok ({ (r.clear.seed.feedBoth b) with state := .dlen }, .none)
  else .ok (r, .badSof)

/-- RX.BYTE@DLEN (42_receiver.md R156). -/
def rxDlen (cfg : Config) (r : Rx) (b : Byte) : RxResult :=
  let r := r.feedBoth b
  if r.offset = 0#16 then .ok ({ r with dlen := zext16 b, offset := 1#16 }, .none)
  else
    let r := { r with dlen := le16 (loByte r.dlen) b, offset := 0#16 }
    if cfg.maxDlen < r.dlen then .ok (r.dropFrame, .dlenOverflow)
    else .ok ({ r with state := .seq }, .none)

/-- RX.BYTE@SEQ (42_receiver.md R158). -/
def rxSeq (cfg : Config) (r : Rx) (b : Byte) : RxResult :=
  .ok ({ ({ (r.feedBoth b) with seq := b }.markDuplicate cfg b) with state := .crc8 }, .none)

/-- RX.BYTE@CRC8 (42_receiver.md R160). -/
def rxCrc8 (r : Rx) (b : Byte) : RxResult :=
  if b = value8 r.c8Acc then .ok ({ r with c16Acc := feed16 r.c16Acc b, state := .cmd }, .none)
  else .ok (r.dropFrame, .crc8Mismatch)

/-- RX.BYTE@CMD (42_receiver.md R162). -/
def rxCmd (r : Rx) (b : Byte) : RxResult :=
  let r := r.feedBoth b
  if r.offset = 0#16 then .ok ({ r with cmd := zext16 b, offset := 1#16 }, .none)
  else
    let r := { r with cmd := le16 (loByte r.cmd) b, offset := 0#16 }
    .ok ({ r with state := if r.dlen = 0#16 then .crc16 else .data }, .none)

/-- RX.BYTE@DATA (42_receiver.md R164). An index that does not exist faults (20_memory.md R56; log 8). -/
def rxData (cfg : Config) (r : Rx) (b : Byte) : RxResult :=
  if r.offset < cfg.maxDlen then
    let r := { (r.feedBoth b) with buf := r.buf.write r.offset.toNat b, offset := r.offset + 1#16 }
    if r.offset = r.dlen then .ok ({ r with offset := 0#16, state := .crc16 }, .none)
    else .ok (r, .none)
  else .error (.rxBufIndex r.offset.toNat)

/-- RX.BYTE@CRC16 (42_receiver.md R166): the event is computed before the clearing. -/
def rxCrc16 (cfg : Config) (r : Rx) (b : Byte) : RxResult :=
  if r.offset = 0#16 then .ok ({ r with crc16Value := zext16 b, offset := 1#16 }, .none)
  else
    let r := { r with crc16Value := le16 (loByte r.crc16Value) b }
    (r.frameEndEvent cfg).map fun ev => (r.dropFrame, ev)

/-- RX.BYTE: the case split on `rx_state` (42_receiver.md R153). -/
def rxStep (cfg : Config) (r : Rx) (b : Byte) : RxResult :=
  match r.state with
  | .sof   => rxSof cfg r b
  | .dlen  => rxDlen cfg r b
  | .seq   => rxSeq cfg r b
  | .crc8  => rxCrc8 r b
  | .cmd   => rxCmd r b
  | .data  => rxData cfg r b
  | .crc16 => rxCrc16 cfg r b

/-- RX.BYTE b (R153). -/
def execRxByte (b : Byte) (s : State) : Host.Outcome State Fault Refusal := s.finishRx (rxStep s.cfg s.rx b)

/-- RX.BYTE@SOF b (R154). -/
def execRxByteSof (b : Byte) (s : State) : Host.Outcome State Fault Refusal :=
  s.finishSubForm .sof (rxSof s.cfg s.rx b)

/-- RX.BYTE@DLEN b (R156). -/
def execRxByteDlen (b : Byte) (s : State) : Host.Outcome State Fault Refusal :=
  s.finishSubForm .dlen (rxDlen s.cfg s.rx b)

/-- RX.BYTE@SEQ b (R158). -/
def execRxByteSeq (b : Byte) (s : State) : Host.Outcome State Fault Refusal :=
  s.finishSubForm .seq (rxSeq s.cfg s.rx b)

/-- RX.BYTE@CRC8 b (R160). -/
def execRxByteCrc8 (b : Byte) (s : State) : Host.Outcome State Fault Refusal :=
  s.finishSubForm .crc8 (rxCrc8 s.rx b)

/-- RX.BYTE@CMD b (R162). -/
def execRxByteCmd (b : Byte) (s : State) : Host.Outcome State Fault Refusal :=
  s.finishSubForm .cmd (rxCmd s.rx b)

/-- RX.BYTE@DATA b (R164). -/
def execRxByteData (b : Byte) (s : State) : Host.Outcome State Fault Refusal :=
  s.finishSubForm .data (rxData s.cfg s.rx b)

/-- RX.BYTE@CRC16 b (R166). -/
def execRxByteCrc16 (b : Byte) (s : State) : Host.Outcome State Fault Refusal :=
  s.finishSubForm .crc16 (rxCrc16 s.cfg s.rx b)

/-- The event of a result that is worth reporting: any but EV_NONE (30_encoding.md R89). -/
def reportedEvent : Output → Option Event
  | .event e => if e = .none then none else some e
  | .none | .crc8 _ | .crc16 _ | .frame _ | .parsed _ _ => none

/-- The events other than EV_NONE among results, in order, each tagged with its index, counted from `k`
(30_encoding.md R89). -/
def taggedEvents : Nat → List Output → List (Nat × Event)
  | _, []      => []
  | k, o :: os =>
    match reportedEvent o with
    | some e => (k, e) :: taggedEvents (k + 1) os
    | none   => taggedEvents (k + 1) os

/-- RX.ABORT: `rx_clear()` and `rx_state <- SOF` (R172). -/
def execRxAbort (s : State) : Host.Outcome State Fault Refusal := { s with rx := s.rx.dropFrame }.done .none

end Sys2Proof.Machine
end

