-- ==== Sys2Proof/Machine/System.lean ====
section
/-!
DEFINITION. SYS.RESET (70_reset_and_hazards.md R220) and the three reserved operation codes
(30_encoding.md R84).
-/

namespace Sys2Proof.Machine

/-- SYS.RESET: every register to its reset value, `rx_buf` and `CFG` not written (R220). -/
def execSysReset (s : State) : Host.Outcome State Fault Refusal := s.resetRegs.done .none

/-- Operation code 0xC: "refused: no state changes, no result, no event" (R84). -/
def execReservedC (_s : State) : Host.Outcome State Fault Refusal := .refused (.reservedCode 0xC#4)

/-- Operation code 0xD (R84). -/
def execReservedD (_s : State) : Host.Outcome State Fault Refusal := .refused (.reservedCode 0xD#4)

/-- Operation code 0xE (R84). -/
def execReservedE (_s : State) : Host.Outcome State Fault Refusal := .refused (.reservedCode 0xE#4)

end Sys2Proof.Machine
end

