-- ==== Sys2Proof/Machine/Dispatch.lean ====
section
/-! DEFINITION. The dispatch of an operation to its meaning, one arm for each constructor of Instr. -/

namespace Sys2Proof.Machine

def exec (i : Instr) (s : State) : Host.Outcome State Fault Refusal :=
  match i with
  | .crc8Init => Sys2Proof.Machine.execCrc8Init s
  | .crc8Feed b => Sys2Proof.Machine.execCrc8Feed b s
  | .crc8Value => Sys2Proof.Machine.execCrc8Value s
  | .crc8Compute bs => Sys2Proof.Machine.execCrc8Compute bs s
  | .crc16Init => Sys2Proof.Machine.execCrc16Init s
  | .crc16Feed b => Sys2Proof.Machine.execCrc16Feed b s
  | .crc16Value => Sys2Proof.Machine.execCrc16Value s
  | .crc16Compute bs => Sys2Proof.Machine.execCrc16Compute bs s
  | .txBuild cmd p => Sys2Proof.Machine.execTxBuild cmd p s
  | .valParse n bs => Sys2Proof.Machine.execValParse n bs s
  | .rxByte b => Sys2Proof.Machine.execRxByte b s
  | .rxByteSof b => Sys2Proof.Machine.execRxByteSof b s
  | .rxByteDlen b => Sys2Proof.Machine.execRxByteDlen b s
  | .rxByteSeq b => Sys2Proof.Machine.execRxByteSeq b s
  | .rxByteCrc8 b => Sys2Proof.Machine.execRxByteCrc8 b s
  | .rxByteCmd b => Sys2Proof.Machine.execRxByteCmd b s
  | .rxByteData b => Sys2Proof.Machine.execRxByteData b s
  | .rxByteCrc16 b => Sys2Proof.Machine.execRxByteCrc16 b s
  | .rxAbort => Sys2Proof.Machine.execRxAbort s
  | .reservedC => Sys2Proof.Machine.execReservedC s
  | .reservedD => Sys2Proof.Machine.execReservedD s
  | .reservedE => Sys2Proof.Machine.execReservedE s
  | .sysReset => Sys2Proof.Machine.execSysReset s

end Sys2Proof.Machine
end

