-- ==== Sys2Proof/Machine/Step.lean ====
section
/-!
DEFINITION. One step of the block: it takes the next operation the environment has issued, decodes it
and executes it, atomically (00_scope.md R18, 20_memory.md R59). With no operation waiting nothing
happens: the block starts nothing by itself (10_state.md R27, 60_exceptions.md R206; log 4).
-/

namespace Sys2Proof.Machine

/-- One operation, or an idle step (log 4). -/
def step (s : State) : Host.Outcome State Fault Refusal :=
  match s.fetch with
  | none          => .next s
  | some (o, s')  =>
    match decode o with
    | .ok i    => exec i s'
    | .error e => .refused (.undecodable e)

/-- The state in which the next operation taken is the one whose command word is `w`, with operands of
zeros (log 4, log 6). -/
def State.withFetchWord (s : State) (_nbits w : Nat) : State := s.issueWord w

end Sys2Proof.Machine
end

