-- ==== Sys2Proof/Safety.lean ====
section
/-!
DEFINITION. The terms in which claims about runs are stated: the invariants of the state (10_state.md
R37, R29, R35), programs and the pseudo-operations (30_encoding.md R88, R89), the agents (20_memory.md
R58), and a run without a fault (42_receiver.md R150).
-/

namespace Sys2Proof.Machine

/-! ### Invariants -/

/-- The receiver's clauses of 10_state.md R37, state by state. -/
def Rx.inRange (cfg : Config) (r : Rx) : Prop :=
  match r.state with
  | .sof   => r.offset = 0#16 ∧ r.dlen = 0#16 ∧ r.cmd = 0#16 ∧ r.crc16Value = 0#16 ∧ r.abandon = false
  | .dlen  => r.offset = 0#16 ∨ r.offset = 1#16
  | .seq   => r.offset = 0#16 ∧ r.dlen ≤ cfg.maxDlen
  | .crc8  => r.offset = 0#16 ∧ r.dlen ≤ cfg.maxDlen
  | .cmd   => (r.offset = 0#16 ∨ r.offset = 1#16) ∧ r.dlen ≤ cfg.maxDlen
  | .data  => r.offset < r.dlen ∧ r.dlen ≤ cfg.maxDlen
  | .crc16 => (r.offset = 0#16 ∨ r.offset = 1#16) ∧ r.dlen ≤ cfg.maxDlen

/-- `rx_abandon` is set only with `CFG.DUP_SUPPRESS = 1` and only after state SEQ (10_state.md R29). -/
def Rx.flagInRange (cfg : Config) (r : Rx) : Prop :=
  r.abandon = true →
    cfg.dupSuppress = true ∧ (r.state = .crc8 ∨ r.state = .cmd ∨ r.state = .data ∨ r.state = .crc16)

/-- Between the two bytes of DLEN, CMD and CRC16 the register holds the first byte zero-extended, and a
field not yet begun is 0 (10_state.md R24; 42_receiver.md R151). -/
def Rx.fieldsInProgress (r : Rx) : Prop :=
  match r.state with
  | .sof   => True
  | .dlen  => (r.offset = 0#16 → r.dlen = 0#16) ∧ hiByte r.dlen = 0#8 ∧ r.cmd = 0#16 ∧ r.crc16Value = 0#16
  | .seq   => r.cmd = 0#16 ∧ r.crc16Value = 0#16
  | .crc8  => r.cmd = 0#16 ∧ r.crc16Value = 0#16
  | .cmd   => (r.offset = 0#16 → r.cmd = 0#16) ∧ hiByte r.cmd = 0#8 ∧ r.crc16Value = 0#16
  | .data  => r.crc16Value = 0#16
  | .crc16 => (r.offset = 0#16 → r.crc16Value = 0#16) ∧ hiByte r.crc16Value = 0#8

/-- Indices 0 to `n - 1` of `rx_buf` have been written. -/
def Memory.written (m : Memory) (n : Nat) : Prop := ∀ i, i < n → (m.read i).isSome = true

/-- The buffer is in canonical form, lists only indices that exist (20_memory.md R56), and every byte
the frame in progress has taken as payload has been written (10_state.md R35). -/
def Rx.bufferInRange (cfg : Config) (r : Rx) : Prop :=
  r.buf.wf ∧ (∀ c ∈ r.buf, c.1 < cfg.maxDlen.toNat) ∧
  match r.state with
  | .data  => r.buf.written r.offset.toNat
  | .crc16 => r.buf.written r.dlen.toNat
  | .sof | .dlen | .seq | .crc8 | .cmd => True

/-- What every step keeps: 10_state.md R37 with R24, R29 and R35. -/
structure State.Inv (s : State) : Prop where
  inRange  : s.rx.inRange s.cfg
  flag     : s.rx.flagInRange s.cfg
  fields   : s.rx.fieldsInProgress
  buffer   : s.rx.bufferInRange s.cfg

/-! ### Programs -/

/-- `k` steps of the machine, the host's run at this machine. -/
def run (k : Nat) (s : State) : Host.Outcome State Fault Refusal := Host.Core.run Sys2Proof.core k s

/-- A program: its operations are issued in order, before whatever already waits, and taken one a step
(30_encoding.md R88). -/
def runProgram (ops : List Instr) (s : State) : Host.Outcome State Fault Refusal :=
  run ops.length { s with issue := ops.map encode ++ s.issue }

/-- The state after `RX.FEED [b0 .. bk]` (30_encoding.md R89). -/
def rxFeed (bs : List Byte) (s : State) : Host.Outcome State Fault Refusal := runProgram (bs.map .rxByte) s

/-- `RX.FEED [b0 .. bk]` with its result: the events other than EV_NONE in order, each tagged with the index
of the byte that produced it (R89). -/
def rxFeedResult (bs : List Byte) (s : State) : Host.Outcome (State × List (Nat × Event)) Fault Refusal :=
  match rxFeed bs s with
  | .next t    => .next (t, taggedEvents 0 (t.outputs.drop s.outputs.length))
  | .fault f   => .fault f
  | .refused r => .refused r

/-- `CRC8.OVER [b0 .. bk]` (R89). -/
def crc8Over (bs : List Byte) (s : State) : Host.Outcome State Fault Refusal :=
  runProgram (.crc8Init :: bs.map .crc8Feed ++ [.crc8Value]) s

/-- `CRC16.OVER [b0 .. bk]` (R89). -/
def crc16Over (bs : List Byte) (s : State) : Host.Outcome State Fault Refusal :=
  runProgram (.crc16Init :: bs.map .crc16Feed ++ [.crc16Value]) s

/-- `PUBLISH cmd p`, the block's part: the environment then transmits the frame returned (R89). -/
def publish (cmd : Half) (p : List Byte) (s : State) : Host.Outcome State Fault Refusal :=
  runProgram [.txBuild cmd p] s

/-- `LOOPBACK cmd p`: the frame TX.BUILD returns is fed to the block's own receiver (R89). -/
def loopback (cmd : Half) (p : List Byte) (s : State) : Host.Outcome State Fault Refusal :=
  match publish cmd p s with
  | .next t =>
    match t.outputs.getLast? with
    | some (.frame f) => rxFeed f t
    | _               => .next t
  | .fault f   => .fault f
  | .refused r => .refused r

/-! ### Agents -/

/-- Who issues an operation (20_memory.md R58). -/
inductive Agent where
  | crcPort | tx | rx
  /-- VAL.PARSE, a pure function any agent may evaluate. -/
  | any
  /-- SYS.RESET, issued by the environment; and the reserved codes, which are no agent's. -/
  | environment
  deriving DecidableEq, Repr

/-- The agent an operation belongs to (20_memory.md R58). -/
def agentOf : Instr → Agent
  | .crc8Init | .crc8Feed _ | .crc8Value | .crc8Compute _ | .crc16Init | .crc16Feed _ | .crc16Value
  | .crc16Compute _ => .crcPort
  | .txBuild _ _ => .tx
  | .valParse _ _ => .any
  | .rxByte _ | .rxByteSof _ | .rxByteDlen _ | .rxByteSeq _ | .rxByteCrc8 _ | .rxByteCmd _ | .rxByteData _
  | .rxByteCrc16 _ | .rxAbort => .rx
  | .reservedC | .reservedD | .reservedE | .sysReset => .environment

/-! ### Runs -/

/-- No run from `s` faults (42_receiver.md R150 "The receiver never faults"; 60_exceptions.md R202). -/
def FaultFree (s : State) : Prop :=
  ∀ (k : Nat) (f : Fault), run k s ≠ .fault f

/-- The receiver after it has consumed `bs`, one byte after the other, and the events in order; the
fault where a byte faults. A shorter way than `rxFeed` to speak of the receiver alone. -/
def rxRun (cfg : Config) : Rx → List Byte → Except Fault (Rx × List Event)
  | r, []      => .ok (r, [])
  | r, b :: bs => do
    let (r', e) ← rxStep cfg r b
    let (r'', es) ← rxRun cfg r' bs
    .ok (r'', e :: es)

/-- The event with which the last byte of a valid frame `bs` of payload length `n` ends, `prevSeq` being
`rx_prev_seq` when the frame's SEQ byte is consumed (42_receiver.md R174). -/
def acceptedEvent (cfg : Config) (prevSeq : Byte) (bs : List Byte) (n : Half) : Event :=
  if cfg.dupSuppress ∧ byteAt bs 3 = prevSeq then .duplicate
  else if subscribed cfg (frameCmd bs) then .dispatch (frameCmd bs) (framePayload bs n.toNat)
  else .unknownCmd (frameCmd bs) n

end Sys2Proof.Machine
end

