-- ==== Sys2Proof/Certificates/Slice0/Obligations.lean ====
section
/-!
DEFINITION. The statements for the provers. They speak of the model in Sys2Proof/Machine and cite the
rules of spec/. Where a statement shows `outputs`, the record of results is the model's own (log 5);
where it shows `issue`, the list of waiting operations is (log 4).
-/

open Sys2Proof Sys2Proof.Machine

/-! ## Encoding and the step -/

/-- A step takes the oldest issued operation, decodes it and runs the decoded instruction on the state
without it; the step adds nothing else around `exec`. The list of waiting operations is the model's
(log 4); that operations are atomic and taken in arrival order is 20_memory.md section 5. -/
def Obligations.StepRunsDecodedOperation : Prop :=
  ∀ (s : State) (o : Issue) (rest : List Issue) (i : Instr),
    s.issue = o :: rest → decode o = .ok i → i.wf = true →
    step s = exec i { s with issue := rest }

/-- With no operation waiting a step changes nothing (MODEL's choice, log 4: the block starts nothing
by itself, 60_exceptions.md section 6); an issued operation the decoder rejects is refused by name
(MODEL's choice, log 11). -/
def Obligations.StepIdlesOrRefuses : Prop :=
  (∀ s : State, s.issue = [] → step s = .next s) ∧
  (∀ (s : State) (o : Issue) (rest : List Issue) (e : DecodeError),
    s.issue = o :: rest → decode o = .error e → step s = .refused (.undecodable e))

/-- Sample command words of 95_test_vectors.md section 5 and 30_encoding.md section 3, written out,
decode to the operations they stand for. -/
def Obligations.SampleWordsDecode : Prop :=
  decodeTableWord 16 0x000 = some .crc8Init ∧
  decodeTableWord 16 0x131 = some (.crc8Feed 0x31#8) ∧
  decodeTableWord 16 0x200 = some .crc8Value ∧
  decode { cw := 0x300#12, cmd := 0#16, n := 0#16, bytes := [0x05#8, 0x01#8] } =
    .ok (.crc8Compute [0x05#8, 0x01#8]) ∧
  decodeTableWord 16 0x5C1 = some (.crc16Feed 0xC1#8) ∧
  decode { cw := 0x800#12, cmd := 0x0102#16, n := 0#16, bytes := [0xDE#8, 0xAD#8] } =
    .ok (.txBuild 0x0102#16 [0xDE#8, 0xAD#8]) ∧
  decode { cw := 0x900#12, cmd := 0#16, n := 4#16, bytes := [0x05#8] } = .ok (.valParse 4#16 [0x05#8]) ∧
  decodeTableWord 16 0xADE = some (.rxByte 0xDE#8) ∧
  decodeTableWord 16 0xB00 = some .rxAbort ∧
  decodeTableWord 16 0xF00 = some .sysReset

/-- Decode and encode agree on every well-formed instruction: an instruction that is no sub-form of
RX.BYTE comes back as it is; a sub-form's word is RX.BYTE's, and comes back as the sub-form in the
receiver state that selects it (30_encoding.md sections 3 and 4). -/
def Obligations.DecodeInvertsEncode : Prop :=
  ∀ i : Instr, i.wf = true →
    decode (encode i) = .ok i.command ∧
    ((∀ (st : RxState) (b : Byte), i ≠ st.subForm b) → decode (encode i) = .ok i) ∧
    (∀ (st : RxState) (b : Byte), i = st.subForm b → decodeIn st (encode i) = .ok i)

/-- What the decoder accepts it reads whole: the instruction is well formed, is no sub-form, has the
issued operation's code, and encodes to an operation that decodes to it again; the decoder rejects
nothing but TX.BUILD with a payload longer than 65535 bytes (MODEL's choice, log 11). -/
def Obligations.DecodedOperationReencodes : Prop :=
  (∀ (o : Issue) (i : Instr), decode o = .ok i →
    i.wf = true ∧ i.command = i ∧ (encode i).op = o.op ∧ decode (encode i) = .ok i) ∧
  (∀ (o : Issue) (e : DecodeError), decode o = .error e ↔
    e = .payloadTooLong ∧ o.op = 0x8#4 ∧ 65535 < o.bytes.length)

/-- Which operands each format reads (30_encoding.md R81): `arg` in format B only; the byte sequence in
S, T and P; `cmd` in T; `N` in P. -/
def Obligations.FormatsReadOnlyTheirOperands : Prop :=
  ∀ o o' : Issue, o.op = o'.op →
    ((o.op = 0x0#4 ∨ o.op = 0x2#4 ∨ o.op = 0x4#4 ∨ o.op = 0x6#4 ∨ o.op = 0xB#4 ∨ o.op = 0xF#4) →
      decode o = decode o') ∧
    ((o.op = 0x1#4 ∨ o.op = 0x5#4 ∨ o.op = 0xA#4) → (decode o = decode o' ↔ o.arg = o'.arg)) ∧
    ((o.op = 0x3#4 ∨ o.op = 0x7#4) → (decode o = decode o' ↔ o.bytes = o'.bytes)) ∧
    (o.op = 0x8#4 → o.bytes.length ≤ 65535 →
      (decode o = decode o' ↔ o.cmd = o'.cmd ∧ o.bytes = o'.bytes)) ∧
    (o.op = 0x9#4 → (decode o = decode o' ↔ o.n = o'.n ∧ o.bytes = o'.bytes))

/-- A command word with a reserved code is refused, whatever its `arg` and whatever stands beside it;
no other word is; and `arg` is ignored in formats Z, S, T and P (30_encoding.md R84). A refusal carries
no state, no result and no event. -/
def Obligations.ReservedCodesRefused : Prop :=
  (∀ (s : State) (o : Issue) (rest : List Issue), s.issue = o :: rest →
    (o.op = 0xC#4 ∨ o.op = 0xD#4 ∨ o.op = 0xE#4) → step s = .refused (.reservedCode o.op)) ∧
  (∀ s : State, exec .reservedC s = .refused (.reservedCode 0xC#4) ∧
    exec .reservedD s = .refused (.reservedCode 0xD#4) ∧
    exec .reservedE s = .refused (.reservedCode 0xE#4)) ∧
  (∀ (o : Issue) (i : Instr), decode o = .ok i →
    (i = .reservedC ∨ i = .reservedD ∨ i = .reservedE) → o.op = 0xC#4 ∨ o.op = 0xD#4 ∨ o.op = 0xE#4) ∧
  (∀ (o : Issue) (a : Byte), o.op ≠ 0x1#4 → o.op ≠ 0x5#4 → o.op ≠ 0xA#4 →
    decode { o with cw := o.op ++ a } = decode o)

/-- RX.BYTE is the sub-form that `rx_state` selects, and the state's codes are those of 10_state.md
R27; the decoder that knows the state gives that sub-form, and reads every other operation as the plain
decoder does (30_encoding.md R83). -/
def Obligations.RxByteIsTheSelectedSubForm : Prop :=
  (∀ (s : State) (b : Byte), exec (.rxByte b) s = exec (s.rx.state.subForm b) s) ∧
  (∀ (st : RxState) (o : Issue), o.op = 0xA#4 → decodeIn st o = .ok (st.subForm o.arg)) ∧
  (∀ (st : RxState) (o : Issue), o.op ≠ 0xA#4 → decodeIn st o = decode o) ∧
  (∀ b : Byte, RxState.sof.subForm b = .rxByteSof b ∧ RxState.dlen.subForm b = .rxByteDlen b ∧
    RxState.seq.subForm b = .rxByteSeq b ∧ RxState.crc8.subForm b = .rxByteCrc8 b ∧
    RxState.cmd.subForm b = .rxByteCmd b ∧ RxState.data.subForm b = .rxByteData b ∧
    RxState.crc16.subForm b = .rxByteCrc16 b) ∧
  RxState.sof.code = 0#3 ∧ RxState.dlen.code = 1#3 ∧ RxState.seq.code = 2#3 ∧ RxState.crc8.code = 3#3 ∧
  RxState.cmd.code = 4#3 ∧ RxState.data.code = 5#3 ∧ RxState.crc16.code = 6#3

/-- MODEL's choice (log 9): a sub-form of RX.BYTE in a state that does not select it is refused. No
issued operation decodes to a sub-form, so no step does this. -/
def Obligations.UnselectedSubFormRefused : Prop :=
  ∀ (s : State) (st : RxState) (b : Byte), st ≠ s.rx.state →
    exec (st.subForm b) s = .refused (.subFormNotSelected s.rx.state)

/-! ## The CRC unit -/

/-- CRC8.INIT and CRC16.INIT: encoding, new accumulator, nothing else (40_crc.md R111, R117). -/
def Obligations.CrcInitSeedsAccumulator : Prop :=
  (∀ o : Issue, o.op = 0x0#4 → decode o = .ok .crc8Init) ∧
  (∀ o : Issue, o.op = 0x4#4 → decode o = .ok .crc16Init) ∧
  ∀ s : State,
    exec .crc8Init s = .next { s with c8Acc := 0xFF#8, outputs := s.outputs ++ [.none] } ∧
    exec .crc16Init s = .next { s with c16Acc := 0xFFFF#16, outputs := s.outputs ++ [.none] }

/-- CRC8.FEED and CRC16.FEED: encoding, new accumulator, nothing else, with the rules' examples
(40_crc.md R112, R118). -/
def Obligations.CrcFeedUpdatesAccumulator : Prop :=
  (∀ o : Issue, o.op = 0x1#4 → decode o = .ok (.crc8Feed o.arg)) ∧
  (∀ o : Issue, o.op = 0x5#4 → decode o = .ok (.crc16Feed o.arg)) ∧
  (∀ (s : State) (b : Byte),
    exec (.crc8Feed b) s = .next { s with c8Acc := feed8 s.c8Acc b, outputs := s.outputs ++ [.none] } ∧
    exec (.crc16Feed b) s = .next { s with c16Acc := feed16 s.c16Acc b, outputs := s.outputs ++ [.none] }) ∧
  feed8 0xFF#8 0x05#8 = 0x50#8 ∧ feed16 0xFFFF#16 0x05#8 = 0x541A#16

/-- CRC8.VALUE and CRC16.VALUE: encoding, the reflected accumulator as result, no state written, with
the rules' examples (40_crc.md R105, R113, R119). -/
def Obligations.CrcValueReflectsAccumulator : Prop :=
  (∀ o : Issue, o.op = 0x2#4 → decode o = .ok .crc8Value) ∧
  (∀ o : Issue, o.op = 0x6#4 → decode o = .ok .crc16Value) ∧
  (∀ s : State,
    exec .crc8Value s = .next { s with outputs := s.outputs ++ [.crc8 (value8 s.c8Acc)] } ∧
    exec .crc16Value s = .next { s with outputs := s.outputs ++ [.crc16 (value16 s.c16Acc)] }) ∧
  (∀ a : Byte, value8 a = reflect a) ∧ (∀ a : Half, value16 a = reflect a) ∧
  value8 0xFF#8 = 0xFF#8 ∧ value16 0xFFFF#16 = 0xFFFF#16 ∧
  value8 0x83#8 = 0xC1#8 ∧ value16 0x84DF#16 = 0xFB21#16

/-- CRC8.COMPUTE and CRC16.COMPUTE: encoding, the one-shot CRC as result, no state written, with the
rules' examples (40_crc.md R114, R120). -/
def Obligations.CrcComputeIsOneShot : Prop :=
  (∀ o : Issue, o.op = 0x3#4 → decode o = .ok (.crc8Compute o.bytes)) ∧
  (∀ o : Issue, o.op = 0x7#4 → decode o = .ok (.crc16Compute o.bytes)) ∧
  (∀ (s : State) (bs : List Byte),
    exec (.crc8Compute bs) s = .next { s with outputs := s.outputs ++ [.crc8 (crc8 bs)] } ∧
    exec (.crc16Compute bs) s = .next { s with outputs := s.outputs ++ [.crc16 (crc16 bs)] }) ∧
  crc8 [] = 0xFF#8 ∧ crc16 [] = 0xFFFF#16 ∧
  crc8 [0x05#8, 0x01#8, 0x00#8, 0x00#8] = 0xC1#8 ∧
  crc16 [0x31#8, 0x32#8, 0x33#8, 0x34#8, 0x35#8, 0x36#8, 0x37#8, 0x38#8, 0x39#8] = 0x6F91#16

/-- `reflect_n` reverses the order of the bits and is its own inverse, with the rule's examples
(40_crc.md R103). -/
def Obligations.ReflectReversesBitOrder : Prop :=
  (∀ (v : Byte) (i : Nat), i < 8 → (reflect v).getLsbD i = v.getLsbD (7 - i)) ∧
  (∀ (v : Half) (i : Nat), i < 16 → (reflect v).getLsbD i = v.getLsbD (15 - i)) ∧
  (∀ v : Byte, reflect (reflect v) = v) ∧ (∀ v : Half, reflect (reflect v) = v) ∧
  reflect 0x05#8 = 0xA0#8 ∧ reflect 0x83#8 = 0xC1#8 ∧
  reflect 0x0001#16 = 0x8000#16 ∧ reflect 0x84DF#16 = 0xFB21#16

/-- The per-byte update, written on numbers: the reflected byte is XORed into the top of the
accumulator, and eight times the top bit is tested, the value doubled, the polynomial XORed if the bit
was set, and the result cut to the width (40_crc.md R104). -/
def Obligations.PerByteUpdateIsEightSteps : Prop :=
  (∀ acc b : Byte, (feed8 acc b).toNat =
    Nat.iterate (fun a => if a / 128 = 1 then ((a * 2) ^^^ 0x31) % 256 else (a * 2) % 256) 8
      (acc.toNat ^^^ (reflect b).toNat)) ∧
  (∀ (acc : Half) (b : Byte), (feed16 acc b).toNat =
    Nat.iterate (fun a => if a / 32768 = 1 then ((a * 2) ^^^ 0x1021) % 65536 else (a * 2) % 65536) 8
      (acc.toNat ^^^ ((reflect b).toNat * 256)))

/-- The one-shot and the incremental form agree: INIT, a FEED for each byte and VALUE return what
COMPUTE returns, and leave the trace in the accumulator and nowhere else (the derived property at the
end of 40_crc.md section 3). -/
def Obligations.IncrementalCrcEqualsOneShot : Prop :=
  ∀ (bs : List Byte) (s : State),
    crc8Over bs s = .next { s with
      c8Acc := feedAll8 0xFF#8 bs,
      outputs := s.outputs ++ List.replicate (bs.length + 1) .none ++ [.crc8 (crc8 bs)] } ∧
    crc16Over bs s = .next { s with
      c16Acc := feedAll16 0xFFFF#16 bs,
      outputs := s.outputs ++ List.replicate (bs.length + 1) .none ++ [.crc16 (crc16 bs)] }

/-- VALUE is repeatable, writes nothing, and FEED may follow it: `INIT; FEED xs; VALUE; VALUE; FEED ys;
VALUE` returns the CRC of `xs` twice and then the CRC of `xs` followed by `ys`, and leaves the whole state
as it was but for the accumulator, which has been fed `xs` and `ys`, and the record of results
(40_crc.md R116). -/
def Obligations.ValueIsRepeatableAndFeedMayFollow : Prop :=
  ∀ (xs ys : List Byte) (s : State),
    let quiet : Nat → List Output := fun n => List.replicate n Output.none
    let prog8 : List Instr := Instr.crc8Init :: (xs.map Instr.crc8Feed ++
      (Instr.crc8Value :: Instr.crc8Value :: (ys.map Instr.crc8Feed ++ [Instr.crc8Value])))
    let prog16 : List Instr := Instr.crc16Init :: (xs.map Instr.crc16Feed ++
      (Instr.crc16Value :: Instr.crc16Value :: (ys.map Instr.crc16Feed ++ [Instr.crc16Value])))
    runProgram prog8 s = .next { s with
      c8Acc := feedAll8 0xFF#8 (xs ++ ys),
      outputs := s.outputs ++ (quiet (xs.length + 1) ++ (Output.crc8 (crc8 xs) :: Output.crc8 (crc8 xs) ::
        (quiet ys.length ++ [Output.crc8 (crc8 (xs ++ ys))]))) } ∧
    runProgram prog16 s = .next { s with
      c16Acc := feedAll16 0xFFFF#16 (xs ++ ys),
      outputs := s.outputs ++ (quiet (xs.length + 1) ++ (Output.crc16 (crc16 xs) :: Output.crc16 (crc16 xs) ::
        (quiet ys.length ++ [Output.crc16 (crc16 (xs ++ ys))]))) }

/-- The least-significant-bit-first form: for every byte sequence it gives the same CRC, with the
reflected polynomials 0x8C and 0x8408, and at every point it is the reflected accumulator (the derived
equivalence at the end of 40_crc.md section 2). -/
def Obligations.LsbFirstFormAgrees : Prop :=
  polyR8 = 0x8C#8 ∧ polyR16 = 0x8408#16 ∧
  (∀ bs : List Byte, crc8Lsb bs = crc8 bs ∧ crc16Lsb bs = crc16 bs) ∧
  (∀ (acc : Byte) (b : Byte), reflect (feed8 acc b) = lsbFeed polyR8 (reflect acc) b) ∧
  (∀ (acc : Half) (b : Byte), reflect (feed16 acc b) = lsbFeed polyR16 (reflect acc) b)

/-- The table-driven form: `r8' = T8[r8 XOR b]` and `r16' = (r16 >> 8) XOR T16[(r16 XOR b) AND 0xFF]`
(40_crc.md section 2, the derived equivalence; first entries from 95_test_vectors.md section 2.6). -/
def Obligations.TableDrivenFormAgrees : Prop :=
  (∀ r b : Byte, lsbFeed polyR8 r b = table8 (r ^^^ b)) ∧
  (∀ (r : Half) (b : Byte), lsbFeed polyR16 r b = (r >>> 8) ^^^ table16 (loByte r ^^^ b)) ∧
  table8 0x01#8 = 0x5E#8 ∧ table8 0x10#8 = 0x9D#8 ∧ table8 0xFF#8 = 0x35#8 ∧
  table16 0x01#8 = 0x1189#16 ∧ table16 0x10#8 = 0x1081#16 ∧ table16 0xFF#8 = 0x0F78#16

/-- For a fixed byte the update is a bijection of the accumulators, and for a fixed accumulator an
injection of the bytes (derived in 40_crc.md section 2 and 41_frame_codec.md section 2). -/
def Obligations.FeedIsBijective : Prop :=
  (∀ b : Byte, Function.Bijective (fun acc : Byte => feed8 acc b)) ∧
  (∀ b : Byte, Function.Bijective (fun acc : Half => feed16 acc b)) ∧
  (∀ acc : Byte, Function.Injective (fun b : Byte => feed8 acc b)) ∧
  (∀ acc : Half, Function.Injective (fun b : Byte => feed16 acc b))

/-- The residue property: a sequence followed by its CRC, low byte first, has CRC 0 (derived in
40_crc.md section 5). -/
def Obligations.ResidueIsZero : Prop :=
  ∀ m : List Byte,
    crc8 (m ++ [crc8 m]) = 0x00#8 ∧
    crc16 (m ++ [loByte (crc16 m), hiByte (crc16 m)]) = 0x0000#16

/-! ## The frame codec -/

/-- TX.BUILD returns the frame of 41_frame_codec.md R130, byte by byte, and increments `tx_seq` modulo
256; it changes nothing else and cannot fail on a payload the interface can express. -/
def Obligations.TxBuildReturnsTheFrame : Prop :=
  (∀ o : Issue, o.op = 0x8#4 → o.bytes.length ≤ 65535 → decode o = .ok (.txBuild o.cmd o.bytes)) ∧
  (∀ (s : State) (cmd : Half) (p : List Byte), p.length ≤ 65535 →
    ∃ f : List Byte,
      exec (.txBuild cmd p) s =
        .next { s with txSeq := s.txSeq + 1#8, outputs := s.outputs ++ [.frame f] } ∧
      f.length = p.length + 9 ∧
      f[0]? = some s.cfg.sof ∧
      f[1]? = some (loByte (BitVec.ofNat 16 p.length)) ∧
      f[2]? = some (hiByte (BitVec.ofNat 16 p.length)) ∧
      f[3]? = some s.txSeq ∧
      f[4]? = some (crc8 (f.take 4)) ∧
      f[5]? = some (loByte cmd) ∧
      f[6]? = some (hiByte cmd) ∧
      (∀ k, k < p.length → f[7 + k]? = p[k]?) ∧
      f[7 + p.length]? = some (loByte (crc16 (f.take (7 + p.length)))) ∧
      f[8 + p.length]? = some (hiByte (crc16 (f.take (7 + p.length))))) ∧
  (0xFF#8 + 1#8 = 0x00#8) ∧
  (∀ s : State, s.txSeq = 0x00#8 → s.cfg.sof = 0x05#8 →
    exec (.txBuild 0x0001#16 [0xA5#8]) s =
      .next { s with txSeq := 0x01#8, outputs := s.outputs ++ [.frame
        [0x05#8, 0x01#8, 0x00#8, 0x00#8, 0xC1#8, 0x01#8, 0x00#8, 0xA5#8, 0x21#8, 0xFB#8]] })

/-- MODEL's choice for the inexpressible (log 11; 93_implementation_defined.md U22 "refuse"): TX.BUILD
with a payload longer than 65535 bytes is refused, by the decoder and by the meaning alike. -/
def Obligations.TooLongPayloadRefused : Prop :=
  (∀ (s : State) (cmd : Half) (p : List Byte), 65535 < p.length →
    exec (.txBuild cmd p) s = .refused .payloadTooLong) ∧
  (∀ o : Issue, o.op = 0x8#4 → 65535 < o.bytes.length → decode o = .error .payloadTooLong)

/-- The frame TX.BUILD returns is valid for its payload length, carries the command id and the payload
where the layout says, and carries the old `tx_seq` (derived in 41_frame_codec.md section 1). -/
def Obligations.BuiltFrameIsValid : Prop :=
  ∀ (s t : State) (cmd : Half) (p : List Byte), exec (.txBuild cmd p) s = .next t →
    ∃ f : List Byte, t.outputs = s.outputs ++ [.frame f] ∧
      validFrame f (BitVec.ofNat 16 p.length) s.cfg.sof ∧
      le16 (byteAt f 5) (byteAt f 6) = cmd ∧ slice f 7 p.length = p ∧ byteAt f 3 = s.txSeq

/-- Consecutive builds carry consecutive SEQ values modulo 256, whatever operations other than TX.BUILD
and SYS.RESET stand between them; the first frame after a SYS.RESET, and the first after power-on with any
configuration, carries 0x00, whatever such operations stand before it (derived in 41_frame_codec.md
section 1). -/
def Obligations.ConsecutiveBuildsIncrementSeq : Prop :=
  let others : List Instr → Prop := fun mid => ∀ i ∈ mid, i ≠ .sysReset ∧ ∀ c p, i ≠ .txBuild c p
  (∀ (s t : State) (c₁ c₂ : Half) (p₁ p₂ : List Byte) (mid : List Instr), others mid →
    runProgram (Instr.txBuild c₁ p₁ :: (mid ++ [Instr.txBuild c₂ p₂])) s = .next t →
    ∃ (f₁ f₂ : List Byte) (outs : List Output), outs.length = mid.length ∧
      t.outputs = s.outputs ++ (Output.frame f₁ :: (outs ++ [Output.frame f₂])) ∧
      byteAt f₂ 3 = byteAt f₁ 3 + 1#8) ∧
  (∀ (s t : State) (cmd : Half) (p : List Byte) (mid : List Instr), others mid →
    runProgram (Instr.sysReset :: (mid ++ [Instr.txBuild cmd p])) s = .next t →
    ∃ (f : List Byte) (outs : List Output), outs.length = mid.length ∧
      t.outputs = s.outputs ++ (Output.none :: (outs ++ [Output.frame f])) ∧ byteAt f 3 = 0x00#8) ∧
  (∀ (cfg : Config) (t : State) (cmd : Half) (p : List Byte) (mid : List Instr), others mid →
    runProgram (mid ++ [Instr.txBuild cmd p]) (State.resetWith cfg) = .next t →
    ∃ (f : List Byte) (outs : List Output), outs.length = mid.length ∧
      t.outputs = outs ++ [Output.frame f] ∧ byteAt f 3 = 0x00#8)

/-- VAL.PARSE returns `Some(cmd, payload)` for a valid frame and `None` for anything else, and writes no
state (41_frame_codec.md R136). The reason code beside it is 0 exactly on success. -/
def Obligations.ParseAcceptsExactlyValidFrames : Prop :=
  (∀ o : Issue, o.op = 0x9#4 → decode o = .ok (.valParse o.n o.bytes)) ∧
  (∀ (s : State) (n : Half) (bs : List Byte),
    (validFrame bs n s.cfg.sof →
      exec (.valParse n bs) s = .next { s with outputs := s.outputs ++
        [.parsed (some (le16 (byteAt bs 5) (byteAt bs 6), slice bs 7 n.toNat)) .ok] }) ∧
    (¬ validFrame bs n s.cfg.sof →
      ∃ reason : ParseReason, reason ≠ .ok ∧
        exec (.valParse n bs) s = .next { s with outputs := s.outputs ++ [.parsed none reason] })) ∧
  (∀ s : State, s.cfg.sof = 0x05#8 →
    exec (.valParse 1#16
      [0x05#8, 0x01#8, 0x00#8, 0x00#8, 0xC1#8, 0x01#8, 0x00#8, 0xA5#8, 0x21#8, 0xFB#8]) s =
    .next { s with outputs := s.outputs ++ [.parsed (some (0x0001#16, [0xA5#8])) .ok] })

/-- The reason that VAL.PARSE returns beside its result is the first failing test in the order of R136,
numbered 1 to 5, and 0 for success (41_frame_codec.md R138). -/
def Obligations.ParseReasonIsFirstFailingTest : Prop :=
  (ParseReason.ok.code = 0 ∧ ParseReason.len.code = 1 ∧ ParseReason.sof.code = 2 ∧
    ParseReason.dlen.code = 3 ∧ ParseReason.crc8.code = 4 ∧ ParseReason.crc16.code = 5) ∧
  ∀ (s : State) (n : Half) (bs : List Byte),
    let lenOk := bs.length = n.toNat + 9
    let sofOk := byteAt bs 0 = s.cfg.sof
    let dlenOk := le16 (byteAt bs 1) (byteAt bs 2) = n
    let crc8Ok := byteAt bs 4 = crc8 (slice bs 0 4)
    let crc16Ok := le16 (byteAt bs (7 + n.toNat)) (byteAt bs (8 + n.toNat)) = crc16 (slice bs 0 (7 + n.toNat))
    let returns : Option (Half × List Byte) → ParseReason → Prop := fun r reason =>
      exec (.valParse n bs) s = .next { s with outputs := s.outputs ++ [.parsed r reason] }
    (¬ lenOk → returns none .len) ∧
    (lenOk → ¬ sofOk → returns none .sof) ∧
    (lenOk → sofOk → ¬ dlenOk → returns none .dlen) ∧
    (lenOk → sofOk → dlenOk → ¬ crc8Ok → returns none .crc8) ∧
    (lenOk → sofOk → dlenOk → crc8Ok → ¬ crc16Ok → returns none .crc16) ∧
    (lenOk → sofOk → dlenOk → crc8Ok → crc16Ok →
      returns (some (le16 (byteAt bs 5) (byteAt bs 6), slice bs 7 n.toNat)) .ok)

/-- Round trip: parsing the frame that TX.BUILD returned, with its payload length, gives back the
command id and the payload, whatever `tx_seq` and the marker are (derived in 41_frame_codec.md
section 2). -/
def Obligations.ParseInvertsBuild : Prop :=
  ∀ (s t : State) (cmd : Half) (p : List Byte), exec (.txBuild cmd p) s = .next t →
    ∃ f : List Byte, t.outputs = s.outputs ++ [.frame f] ∧
      exec (.valParse (BitVec.ofNat 16 p.length) f) t =
        .next { t with outputs := t.outputs ++ [.parsed (some (cmd, p)) .ok] }

/-- A valid frame changed in exactly one byte is always rejected (derived in 41_frame_codec.md
section 2). -/
def Obligations.SingleByteTamperingRejected : Prop :=
  ∀ (s : State) (n : Half) (bs : List Byte) (k : Nat) (b : Byte),
    validFrame bs n s.cfg.sof → k < bs.length → byteAt bs k ≠ b →
    ∃ reason : ParseReason, reason ≠ .ok ∧
      exec (.valParse n (bs.set k b)) s = .next { s with outputs := s.outputs ++ [.parsed none reason] }

/-! ## The receiver: the sub-forms -/

/-- RX.BYTE@SOF and RX.BYTE in state SOF (42_receiver.md R154): the marker clears, re-seeds, is fed and
starts a frame; any other byte is discarded with no state change. -/
def Obligations.RxByteSofHuntsForMarker : Prop :=
  (∀ (s : State) (b : Byte) (i : Instr), s.rx.state = .sof → i = .rxByteSof b ∨ i = .rxByte b →
    (b = s.cfg.sof →
      exec i s = .next { s with
        rx := { s.rx with
          state := .dlen, offset := 0#16, dlen := 0#16, cmd := 0#16, crc16Value := 0#16, abandon := false,
          c8Acc := feed8 0xFF#8 b, c16Acc := feed16 0xFFFF#16 b },
        outputs := s.outputs ++ [.event .none] }) ∧
    (b ≠ s.cfg.sof →
      exec i s = .next { s with outputs := s.outputs ++ [.event .badSof] })) ∧
  feed8 0xFF#8 0x05#8 = 0x50#8 ∧ feed16 0xFFFF#16 0x05#8 = 0x541A#16

/-- RX.BYTE@DLEN and RX.BYTE in state DLEN (42_receiver.md R156): the low byte, zero-extended; then the
high byte, with the completed value tested against `CFG.MAX_DLEN`; both bytes fed. -/
def Obligations.RxByteDlenAssemblesLength : Prop :=
  ∀ (s : State) (b : Byte) (i : Instr), s.rx.state = .dlen → i = .rxByteDlen b ∨ i = .rxByte b →
    (s.rx.offset = 0#16 →
      exec i s = .next { s with
        rx := { s.rx with
          c8Acc := feed8 s.rx.c8Acc b, c16Acc := feed16 s.rx.c16Acc b, dlen := b.setWidth 16, offset := 1#16 },
        outputs := s.outputs ++ [.event .none] }) ∧
    (s.rx.offset = 1#16 → le16 (loByte s.rx.dlen) b ≤ s.cfg.maxDlen →
      exec i s = .next { s with
        rx := { s.rx with
          c8Acc := feed8 s.rx.c8Acc b, c16Acc := feed16 s.rx.c16Acc b, dlen := le16 (loByte s.rx.dlen) b,
          offset := 0#16, state := .seq },
        outputs := s.outputs ++ [.event .none] }) ∧
    (s.rx.offset = 1#16 → s.cfg.maxDlen < le16 (loByte s.rx.dlen) b →
      exec i s = .next { s with
        rx := { s.rx with
          c8Acc := feed8 s.rx.c8Acc b, c16Acc := feed16 s.rx.c16Acc b, offset := 0#16, dlen := 0#16,
          cmd := 0#16, crc16Value := 0#16, abandon := false, state := .sof },
        outputs := s.outputs ++ [.event .dlenOverflow] })

/-- RX.BYTE@SEQ and RX.BYTE in state SEQ (42_receiver.md R158): SEQ is recorded; with duplicate
suppression an equal SEQ sets the flag and any other is remembered; without it neither register is
touched. -/
def Obligations.RxByteSeqRecordsSequence : Prop :=
  ∀ (s : State) (b : Byte) (i : Instr), s.rx.state = .seq → i = .rxByteSeq b ∨ i = .rxByte b →
    (s.cfg.dupSuppress = false →
      exec i s = .next { s with
        rx := { s.rx with
          c8Acc := feed8 s.rx.c8Acc b, c16Acc := feed16 s.rx.c16Acc b, seq := b, state := .crc8 },
        outputs := s.outputs ++ [.event .none] }) ∧
    (s.cfg.dupSuppress = true → b = s.rx.prevSeq →
      exec i s = .next { s with
        rx := { s.rx with
          c8Acc := feed8 s.rx.c8Acc b, c16Acc := feed16 s.rx.c16Acc b, seq := b, abandon := true,
          state := .crc8 },
        outputs := s.outputs ++ [.event .none] }) ∧
    (s.cfg.dupSuppress = true → b ≠ s.rx.prevSeq →
      exec i s = .next { s with
        rx := { s.rx with
          c8Acc := feed8 s.rx.c8Acc b, c16Acc := feed16 s.rx.c16Acc b, seq := b, prevSeq := b,
          state := .crc8 },
        outputs := s.outputs ++ [.event .none] })

/-- RX.BYTE@CRC8 and RX.BYTE in state CRC8 (42_receiver.md R160): a matching byte is fed to the CRC-16
accumulator only; any other drops the frame and is fed to neither; with the rule's example. -/
def Obligations.RxByteCrc8ChecksHeader : Prop :=
  (∀ (s : State) (b : Byte) (i : Instr), s.rx.state = .crc8 → i = .rxByteCrc8 b ∨ i = .rxByte b →
    (b = reflect s.rx.c8Acc →
      exec i s = .next { s with
        rx := { s.rx with c16Acc := feed16 s.rx.c16Acc b, state := .cmd },
        outputs := s.outputs ++ [.event .none] }) ∧
    (b ≠ reflect s.rx.c8Acc →
      exec i s = .next { s with
        rx := { s.rx with
          offset := 0#16, dlen := 0#16, cmd := 0#16, crc16Value := 0#16, abandon := false, state := .sof },
        outputs := s.outputs ++ [.event .crc8Mismatch] })) ∧
  reflect 0x83#8 = 0xC1#8 ∧ feed16 0x55EC#16 0xC1#8 = 0x47BB#16

/-- RX.BYTE@CMD and RX.BYTE in state CMD (42_receiver.md R162): CMD is assembled low byte first, both
bytes fed; an empty payload skips state DATA. -/
def Obligations.RxByteCmdAssemblesCommand : Prop :=
  ∀ (s : State) (b : Byte) (i : Instr), s.rx.state = .cmd → i = .rxByteCmd b ∨ i = .rxByte b →
    (s.rx.offset = 0#16 →
      exec i s = .next { s with
        rx := { s.rx with
          c8Acc := feed8 s.rx.c8Acc b, c16Acc := feed16 s.rx.c16Acc b, cmd := b.setWidth 16, offset := 1#16 },
        outputs := s.outputs ++ [.event .none] }) ∧
    (s.rx.offset = 1#16 →
      exec i s = .next { s with
        rx := { s.rx with
          c8Acc := feed8 s.rx.c8Acc b, c16Acc := feed16 s.rx.c16Acc b, cmd := le16 (loByte s.rx.cmd) b,
          offset := 0#16, state := if s.rx.dlen = 0#16 then .crc16 else .data },
        outputs := s.outputs ++ [.event .none] })

/-- RX.BYTE@DATA and RX.BYTE in state DATA (42_receiver.md R164), `rx_offset < rx_dlen <= CFG.MAX_DLEN`
(10_state.md R37): the byte goes to `rx_buf[rx_offset]` and to no other index, is fed to both
accumulators, and the last byte leads to state CRC16. -/
def Obligations.RxByteDataStoresPayload : Prop :=
  ∀ (s : State) (b : Byte) (i : Instr), s.rx.state = .data → i = .rxByteData b ∨ i = .rxByte b →
    s.rx.offset < s.rx.dlen → s.rx.dlen ≤ s.cfg.maxDlen →
    ∃ buf : Memory,
      (exec i s = .next { s with
        rx := { s.rx with
          c8Acc := feed8 s.rx.c8Acc b, c16Acc := feed16 s.rx.c16Acc b, buf := buf,
          offset := if s.rx.offset.toNat + 1 = s.rx.dlen.toNat then 0#16 else s.rx.offset + 1#16,
          state := if s.rx.offset.toNat + 1 = s.rx.dlen.toNat then .crc16 else .data },
        outputs := s.outputs ++ [.event .none] }) ∧
      buf.read s.rx.offset.toNat = some b ∧
      (∀ a, a ≠ s.rx.offset.toNat → buf.read a = s.rx.buf.read a) ∧
      (s.rx.offset.toNat + 1 ≠ s.rx.dlen.toNat → (s.rx.offset + 1#16).toNat = s.rx.offset.toNat + 1)

/-- RX.BYTE@CRC16 and RX.BYTE in state CRC16 (42_receiver.md R166, R168): the CRC16 field is assembled
low byte first and fed to neither accumulator; at the second byte the frame ends with the first of the
four outcomes that holds, and the receiver is cleared whatever the outcome. What `subscribed` decides is
membership in CFG.SUBSCRIBED, which may be any subset of the ids (00_scope.md section 4, 10_state.md
section 5); that the set is written as an IdSet, a flag and a list of exceptions, is the MODEL's choice
(log 3). -/
def Obligations.RxByteCrc16EndsFrame : Prop :=
  (∀ (s : State) (b : Byte) (i : Instr), s.rx.state = .crc16 → i = .rxByteCrc16 b ∨ i = .rxByte b →
    let field := le16 (loByte s.rx.crc16Value) b
    let cleared := { s.rx with
      offset := 0#16, dlen := 0#16, cmd := 0#16, crc16Value := 0#16, abandon := false, state := .sof }
    let ends := fun e : Event => exec i s = .next { s with rx := cleared, outputs := s.outputs ++ [.event e] }
    (s.rx.offset = 0#16 →
      exec i s = .next { s with
        rx := { s.rx with crc16Value := b.setWidth 16, offset := 1#16 },
        outputs := s.outputs ++ [.event .none] }) ∧
    (s.rx.offset = 1#16 → reflect s.rx.c16Acc ≠ field → ends .crc16Mismatch) ∧
    (s.rx.offset = 1#16 → reflect s.rx.c16Acc = field → s.rx.abandon = true → ends .duplicate) ∧
    (s.rx.offset = 1#16 → reflect s.rx.c16Acc = field → s.rx.abandon = false →
      subscribed s.cfg s.rx.cmd = false → ends (.unknownCmd s.rx.cmd s.rx.dlen)) ∧
    (s.rx.offset = 1#16 → reflect s.rx.c16Acc = field → s.rx.abandon = false →
      subscribed s.cfg s.rx.cmd = true → s.rx.dlen ≤ s.cfg.maxDlen →
      ends (.dispatch s.rx.cmd ((List.range s.rx.dlen.toNat).map s.rx.buf.byte)))) ∧
  (∀ (cfg : Config) (cmd : Half),
    (cfg.subscribed.everyId = true → (subscribed cfg cmd = true ↔ cmd ∉ cfg.subscribed.exceptions)) ∧
    (cfg.subscribed.everyId = false → (subscribed cfg cmd = true ↔ cmd ∈ cfg.subscribed.exceptions))) ∧
  (∀ member : Half → Bool, ∃ ids : IdSet, ∀ (cfg : Config) (cmd : Half), cfg.subscribed = ids →
    subscribed cfg cmd = member cmd)

/-- MODEL's choice (log 8): an `rx_buf` index at or above `CFG.MAX_DLEN` does not exist, and the two
accesses that could name one, in states that 10_state.md section 9 excludes, fault. -/
def Obligations.AbsentBufferIndexFaults : Prop :=
  (∀ (s : State) (b : Byte), s.rx.state = .data → s.cfg.maxDlen ≤ s.rx.offset →
    exec (.rxByte b) s = .fault (.rxBufIndex s.rx.offset.toNat)) ∧
  (∀ (s : State) (b : Byte), s.rx.state = .crc16 → s.rx.offset = 1#16 → s.cfg.maxDlen < s.rx.dlen →
    reflect s.rx.c16Acc = le16 (loByte s.rx.crc16Value) b → s.rx.abandon = false →
    subscribed s.cfg s.rx.cmd = true →
    exec (.rxByte b) s = .fault (.rxBufIndex s.cfg.maxDlen.toNat))

/-- RX.ABORT (42_receiver.md R172): encoding; the frame in progress is discarded, `rx_seq`,
`rx_prev_seq`, both accumulators and `rx_buf` are kept; in state SOF it changes nothing but the record
of results. -/
def Obligations.RxAbortDiscardsFrame : Prop :=
  (∀ o : Issue, o.op = 0xB#4 → decode o = .ok .rxAbort) ∧
  (∀ s : State, exec .rxAbort s = .next { s with
    rx := { s.rx with
      offset := 0#16, dlen := 0#16, cmd := 0#16, crc16Value := 0#16, abandon := false, state := .sof },
    outputs := s.outputs ++ [.none] }) ∧
  (∀ s : State, s.rx.state = .sof → s.rx.inRange s.cfg →
    exec .rxAbort s = .next { s with outputs := s.outputs ++ [.none] })

/-- SYS.RESET (70_reset_and_hazards.md R220): encoding; every register of the three units takes its
reset value, `rx_buf` and `CFG` are not written. -/
def Obligations.SysResetRestoresResetValues : Prop :=
  (∀ o : Issue, o.op = 0xF#4 → decode o = .ok .sysReset) ∧
  (∀ s : State, exec .sysReset s = .next { s with
    c8Acc := 0xFF#8, c16Acc := 0xFFFF#16, txSeq := 0x00#8,
    rx := { state := .sof, offset := 0#16, dlen := 0#16, seq := 0x00#8, prevSeq := s.cfg.prevSeqReset,
            abandon := false, cmd := 0#16, crc16Value := 0#16, c8Acc := 0xFF#8, c16Acc := 0xFFFF#16,
            buf := s.rx.buf },
    outputs := s.outputs ++ [.none] })

/-- The machine right after power-on, which is a reset (70_reset_and_hazards.md section 1): the
register values of 10_state.md R20, for every configuration. The configuration of `State.reset`, the
empty buffer and the two empty lists are the MODEL's choice (log 2, log 4, log 5, log 7). -/
def Obligations.ResetStateValues : Prop :=
  (∀ cfg : Config,
    let s := State.resetWith cfg
    s.c8Acc = 0xFF#8 ∧ s.c16Acc = 0xFFFF#16 ∧ s.txSeq = 0x00#8 ∧ s.rx.state = .sof ∧
    s.rx.offset = 0#16 ∧ s.rx.dlen = 0#16 ∧ s.rx.seq = 0x00#8 ∧ s.rx.prevSeq = cfg.prevSeqReset ∧
    s.rx.abandon = false ∧ s.rx.cmd = 0#16 ∧ s.rx.crc16Value = 0#16 ∧ s.rx.c8Acc = 0xFF#8 ∧
    s.rx.c16Acc = 0xFFFF#16 ∧ s.cfg = cfg) ∧
  State.reset = State.resetWith Config.default ∧
  State.reset.cfg.sof = 0x05#8 ∧ State.reset.cfg.dupSuppress = false

/-! ## The receiver: rules over all states -/

/-- RX.BYTE completes in every state that satisfies 10_state.md R37, for every byte, with exactly one
event, changing nothing but the receiver and the record of results (42_receiver.md R150). RX.FEED, the
RX.BYTE of each byte in turn, completes too, with one event a byte, and its result is the list of the
events other than EV_NONE, in order, each tagged with the index of its byte (30_encoding.md R89). -/
def Obligations.RxByteIsTotal : Prop :=
  (∀ (s : State) (b : Byte), s.rx.inRange s.cfg →
    ∃ (r : Rx) (e : Event),
      exec (.rxByte b) s = .next { s with rx := r, outputs := s.outputs ++ [.event e] }) ∧
  (∀ (s : State) (bs : List Byte), s.rx.inRange s.cfg →
    ∃ (r : Rx) (es : List Event) (tagged : List (Nat × Event)),
      rxFeedResult bs s = .next ({ s with rx := r, outputs := s.outputs ++ es.map Output.event }, tagged) ∧
      rxFeed bs s = .next { s with rx := r, outputs := s.outputs ++ es.map Output.event } ∧
      es.length = bs.length ∧
      (∀ (k : Nat) (e : Event), (k, e) ∈ tagged ↔ es[k]? = some e ∧ e ≠ .none) ∧
      tagged.Pairwise (fun x y => x.1 < y.1))

/-- The complete transition table of `rx_state` with its events (42_receiver.md R170), for the states of
10_state.md R37: the RX.BYTE rows, each completing; RX.ABORT, cleared and with no event; SYS.RESET, to the
reset values and with no event; and no other transition: an operation that changes `rx_state` is one of
these, RX.BYTE possibly under the name of its sub-form, and no state has code 7. -/
def Obligations.TransitionTableHolds : Prop :=
  (∀ (s : State) (b : Byte), s.rx.inRange s.cfg →
    ∃ (t : State) (e : Event), exec (.rxByte b) s = .next t ∧ t.outputs = s.outputs ++ [.event e] ∧
      let completed := le16 (loByte s.rx.dlen) b
      let cleared := t.rx.offset = 0#16 ∧ t.rx.dlen = 0#16 ∧ t.rx.cmd = 0#16 ∧ t.rx.crc16Value = 0#16 ∧
        t.rx.abandon = false
      match s.rx.state with
      | .sof =>
        (b ≠ s.cfg.sof → t.rx.state = .sof ∧ e = .badSof) ∧
        (b = s.cfg.sof → t.rx.state = .dlen ∧ e = .none ∧ cleared ∧
          t.rx.c8Acc = feed8 0xFF#8 b ∧ t.rx.c16Acc = feed16 0xFFFF#16 b)
      | .dlen =>
        (s.rx.offset = 0#16 → t.rx.state = .dlen ∧ t.rx.offset = 1#16 ∧ e = .none) ∧
        (s.rx.offset = 1#16 → completed ≤ s.cfg.maxDlen → t.rx.state = .seq ∧ e = .none) ∧
        (s.rx.offset = 1#16 → s.cfg.maxDlen < completed → t.rx.state = .sof ∧ cleared ∧ e = .dlenOverflow)
      | .seq => t.rx.state = .crc8 ∧ e = .none
      | .crc8 =>
        (b = value8 s.rx.c8Acc → t.rx.state = .cmd ∧ e = .none) ∧
        (b ≠ value8 s.rx.c8Acc → t.rx.state = .sof ∧ cleared ∧ e = .crc8Mismatch)
      | .cmd =>
        (s.rx.offset = 0#16 → t.rx.state = .cmd ∧ t.rx.offset = 1#16 ∧ e = .none) ∧
        (s.rx.offset = 1#16 → s.rx.dlen ≠ 0#16 → t.rx.state = .data ∧ e = .none) ∧
        (s.rx.offset = 1#16 → s.rx.dlen = 0#16 → t.rx.state = .crc16 ∧ e = .none)
      | .data =>
        (s.rx.offset.toNat + 1 < s.rx.dlen.toNat →
          t.rx.state = .data ∧ t.rx.offset.toNat = s.rx.offset.toNat + 1 ∧ e = .none) ∧
        (s.rx.offset.toNat + 1 = s.rx.dlen.toNat → t.rx.state = .crc16 ∧ e = .none)
      | .crc16 =>
        (s.rx.offset = 0#16 → t.rx.state = .crc16 ∧ t.rx.offset = 1#16 ∧ e = .none) ∧
        (s.rx.offset = 1#16 → t.rx.state = .sof ∧ cleared ∧
          { s.rx with crc16Value := le16 (loByte s.rx.crc16Value) b }.frameEndEvent s.cfg = .ok e)) ∧
  (∀ s : State, exec .rxAbort s = .next { s with
    rx := { s.rx with
      state := .sof, offset := 0#16, dlen := 0#16, cmd := 0#16, crc16Value := 0#16, abandon := false },
    outputs := s.outputs ++ [.none] }) ∧
  (∀ s : State, ∃ t : State, exec .sysReset s = .next t ∧ t.outputs = s.outputs ++ [.none] ∧
    t.rx = { state := .sof, offset := 0#16, dlen := 0#16, seq := 0x00#8, prevSeq := s.cfg.prevSeqReset,
             abandon := false, cmd := 0#16, crc16Value := 0#16, c8Acc := 0xFF#8, c16Acc := 0xFFFF#16,
             buf := s.rx.buf }) ∧
  (∀ (i : Instr) (s t : State), exec i s = .next t → t.rx.state ≠ s.rx.state →
    i = .rxAbort ∨ i = .sysReset ∨
    ∃ b : Byte, (i = .rxByte b ∨ i = s.rx.state.subForm b) ∧ exec (.rxByte b) s = .next t) ∧
  (∀ st : RxState, st.code ≠ 7#3)

/-- The events have the codes of 60_exceptions.md section 1. When RX.BYTE reports events 2 to 7 the
receiver is cleared and in state SOF, and `rx_seq`, `rx_prev_seq` and `rx_buf` keep their values; the
accumulators keep theirs too, but for the DLEN byte that the overflow has been fed; event 1 changes no
state (60_exceptions.md section 4). -/
def Obligations.RejectionClearsReceiver : Prop :=
  (Event.none.code = 0#3 ∧ Event.badSof.code = 1#3 ∧ Event.dlenOverflow.code = 2#3 ∧
    Event.crc8Mismatch.code = 3#3 ∧ Event.crc16Mismatch.code = 4#3 ∧ Event.duplicate.code = 5#3 ∧
    (∀ c d : Half, (Event.unknownCmd c d).code = 6#3) ∧
    (∀ (c : Half) (p : List Byte), (Event.dispatch c p).code = 7#3)) ∧
  ∀ (s t : State) (b : Byte) (e : Event), exec (.rxByte b) s = .next t →
    t.outputs = s.outputs ++ [.event e] →
    (2#3 ≤ e.code →
      t.rx.state = .sof ∧ t.rx.offset = 0#16 ∧ t.rx.dlen = 0#16 ∧ t.rx.cmd = 0#16 ∧
      t.rx.crc16Value = 0#16 ∧ t.rx.abandon = false ∧ t.rx.seq = s.rx.seq ∧ t.rx.prevSeq = s.rx.prevSeq ∧
      t.rx.buf = s.rx.buf ∧
      (e ≠ .dlenOverflow → t.rx.c8Acc = s.rx.c8Acc ∧ t.rx.c16Acc = s.rx.c16Acc) ∧
      (e = .dlenOverflow → t.rx.c8Acc = feed8 s.rx.c8Acc b ∧ t.rx.c16Acc = feed16 s.rx.c16Acc b)) ∧
    (e.code = 1#3 → t = { s with outputs := s.outputs ++ [.event .badSof] })

/-- EV_DUPLICATE is possible only with `CFG.DUP_SUPPRESS = 1` and only when the CRC-16 was right
(60_exceptions.md R195), in the states where the flag is set only by that policy (10_state.md R29). -/
def Obligations.DuplicateNeedsSuppression : Prop :=
  ∀ (s t : State) (b : Byte), s.rx.flagInRange s.cfg → exec (.rxByte b) s = .next t →
    t.outputs = s.outputs ++ [.event .duplicate] →
    s.cfg.dupSuppress = true ∧ s.rx.state = .crc16 ∧
      reflect s.rx.c16Acc = le16 (loByte s.rx.crc16Value) b

/-- `rx_buf` is written only by RX.BYTE in state DATA, at index `rx_offset`; every other index, and every
index under every other operation, reads as before (10_state.md R34). -/
def Obligations.OnlyDataBytesAreStored : Prop :=
  ∀ (i : Instr) (s t : State), exec i s = .next t →
    ∀ a : Nat,
      (∃ b : Byte, (i = .rxByte b ∨ i = .rxByteData b) ∧ s.rx.state = .data ∧ a = s.rx.offset.toNat ∧
        t.rx.buf.read a = some b) ∨
      ((¬ ∃ b : Byte, (i = .rxByte b ∨ i = .rxByteData b) ∧ s.rx.state = .data ∧ a = s.rx.offset.toNat) ∧
        t.rx.buf.read a = s.rx.buf.read a)

/-- `rx_seq` is written in state SEQ with the byte consumed and by nothing else but SYS.RESET;
`rx_prev_seq` is written in state SEQ with `CFG.DUP_SUPPRESS = 1` and by SYS.RESET only (10_state.md
section 2). -/
def Obligations.SequenceRegistersWrittenOnlyInSeq : Prop :=
  ∀ (i : Instr) (s t : State), exec i s = .next t →
    (t.rx.seq ≠ s.rx.seq →
      (i = .sysReset ∧ t.rx.seq = 0x00#8) ∨
      ∃ b : Byte, (i = .rxByte b ∨ i = .rxByteSeq b) ∧ s.rx.state = .seq ∧ t.rx.seq = b) ∧
    (t.rx.prevSeq ≠ s.rx.prevSeq →
      (i = .sysReset ∧ t.rx.prevSeq = s.cfg.prevSeqReset) ∨
      ∃ b : Byte, (i = .rxByte b ∨ i = .rxByteSeq b) ∧ s.rx.state = .seq ∧ s.cfg.dupSuppress = true ∧
        t.rx.prevSeq = b) ∧
    (t.rx.abandon = true → s.rx.abandon = false →
      ∃ b : Byte, (i = .rxByte b ∨ i = .rxByteSeq b) ∧ s.rx.state = .seq ∧ s.cfg.dupSuppress = true ∧
        b = s.rx.prevSeq)

/-- Which operation writes which element: `CFG` and the waiting operations are written by none, each
operation appends one result, and each unit writes its own state only; RX.ABORT keeps `rx_seq`,
`rx_prev_seq`, the accumulators and `rx_buf`, SYS.RESET keeps `rx_buf` (10_state.md section 2, the
table of R22; section 5). -/
def Obligations.UnitsWriteOnlyTheirOwnState : Prop :=
  ∀ (i : Instr) (s t : State), exec i s = .next t →
    t.cfg = s.cfg ∧ t.issue = s.issue ∧ (∃ o : Output, t.outputs = s.outputs ++ [o]) ∧
    (t.c8Acc ≠ s.c8Acc → i = .crc8Init ∨ (∃ b : Byte, i = .crc8Feed b) ∨ i = .sysReset) ∧
    (t.c16Acc ≠ s.c16Acc → i = .crc16Init ∨ (∃ b : Byte, i = .crc16Feed b) ∨ i = .sysReset) ∧
    (t.txSeq ≠ s.txSeq → (∃ (cmd : Half) (p : List Byte), i = .txBuild cmd p) ∨ i = .sysReset) ∧
    (t.rx ≠ s.rx → agentOf i = .rx ∨ i = .sysReset) ∧
    (i = .rxAbort → t.rx.seq = s.rx.seq ∧ t.rx.prevSeq = s.rx.prevSeq ∧ t.rx.c8Acc = s.rx.c8Acc ∧
      t.rx.c16Acc = s.rx.c16Acc ∧ t.rx.buf = s.rx.buf) ∧
    (i = .sysReset → t.rx.buf = s.rx.buf)

/-- No operation of one unit reads another unit's state: what an operation does to its own unit, and its
result, depend on that unit and on `CFG` only; the receiver never reads `tx_seq` (10_state.md section
2, last sentences of R22). -/
def Obligations.UnitsDoNotReadEachOther : Prop :=
  ∀ (i : Instr) (s s' t : State), s.cfg = s'.cfg → exec i s = .next t →
    (agentOf i = .crcPort → s.c8Acc = s'.c8Acc → s.c16Acc = s'.c16Acc →
      ∃ (t' : State) (o : Output), exec i s' = .next t' ∧ t'.c8Acc = t.c8Acc ∧ t'.c16Acc = t.c16Acc ∧
        t.outputs = s.outputs ++ [o] ∧ t'.outputs = s'.outputs ++ [o]) ∧
    (agentOf i = .tx → s.txSeq = s'.txSeq →
      ∃ (t' : State) (o : Output), exec i s' = .next t' ∧ t'.txSeq = t.txSeq ∧
        t.outputs = s.outputs ++ [o] ∧ t'.outputs = s'.outputs ++ [o]) ∧
    (agentOf i = .rx → s.rx = s'.rx →
      ∃ (t' : State) (o : Output), exec i s' = .next t' ∧ t'.rx = t.rx ∧
        t.outputs = s.outputs ++ [o] ∧ t'.outputs = s'.outputs ++ [o]) ∧
    (agentOf i = .any →
      ∃ (t' : State) (o : Output), exec i s' = .next t' ∧
        t.outputs = s.outputs ++ [o] ∧ t'.outputs = s'.outputs ++ [o])

/-- Operations of different agents commute: both orders complete, leave the same state, and each
operation returns the same result in both (derived in 20_memory.md section 5). -/
def Obligations.AgentsCommute : Prop :=
  ∀ (i j : Instr) (s si sj : State),
    (agentOf i = .crcPort ∨ agentOf i = .tx ∨ agentOf i = .rx) →
    (agentOf j = .crcPort ∨ agentOf j = .tx ∨ agentOf j = .rx) →
    agentOf i ≠ agentOf j → exec i s = .next si → exec j s = .next sj →
    ∃ (sij sji : State) (oi oj : Output),
      exec j si = .next sij ∧ exec i sj = .next sji ∧
      si.outputs = s.outputs ++ [oi] ∧ sj.outputs = s.outputs ++ [oj] ∧
      sij.outputs = s.outputs ++ [oi, oj] ∧ sji.outputs = s.outputs ++ [oj, oi] ∧
      { sij with outputs := [] } = { sji with outputs := [] }

/-- A dispatched payload is made of written bytes only: no byte of `rx_buf` that has not been written is
ever read, so no free value reaches an event (derived in 10_state.md section 7). -/
def Obligations.DispatchReadsOnlyWrittenBytes : Prop :=
  ∀ (s t : State) (b : Byte) (cmd : Half) (p : List Byte), s.Inv → exec (.rxByte b) s = .next t →
    t.outputs = s.outputs ++ [.event (.dispatch cmd p)] →
    cmd = s.rx.cmd ∧ p.length = s.rx.dlen.toNat ∧
    ∀ k, k < p.length → ∃ v : Byte, s.rx.buf.read k = some v ∧ p[k]? = some v

/-! ## Invariants and runs -/

/-- Every step from a state that meets the invariant leads to one that meets it (10_state.md section 9,
with sections 2, 4 and 7). -/
def Obligations.StepKeepsInvariant : Prop :=
  ∀ s t : State, s.Inv → step s = .next t → t.Inv

/-- The clauses of 10_state.md section 9 alone, kept by every operation from every state that has them. -/
def Obligations.EveryOperationKeepsReceiverRanges : Prop :=
  ∀ (i : Instr) (s t : State), s.rx.inRange s.cfg → exec i s = .next t → t.rx.inRange t.cfg

/-- The machine right after reset meets the invariant, whatever its configuration. -/
def Obligations.ResetMeetsInvariant : Prop :=
  State.reset.Inv ∧ ∀ cfg : Config, (State.resetWith cfg).Inv

/-- No run from a state that satisfies 10_state.md section 9 ever faults, whatever operations are issued
(42_receiver.md section 1: the receiver never faults). -/
def Obligations.NoRunFaults : Prop :=
  ∀ s : State, s.rx.inRange s.cfg → FaultFree s

/-- Bytes other than the marker that arrive in state SOF are discarded one by one, each with EV_BAD_SOF,
and change nothing (60_exceptions.md section 1; derived in 42_receiver.md section 5). -/
def Obligations.NoiseIsDiscarded : Prop :=
  ∀ (bs : List Byte) (s : State), s.rx.state = .sof → (∀ b ∈ bs, b ≠ s.cfg.sof) →
    rxFeed bs s = .next { s with outputs := s.outputs ++ List.replicate bs.length (.event .badSof) }

/-- Acceptance from idle: a receiver in state SOF that is fed a valid frame that fits its buffer returns
EV_NONE for every byte but the last and for the last the frame's outcome, and is in state SOF again;
nothing outside the receiver changes (derived in 42_receiver.md section 5). -/
def Obligations.ValidFrameAcceptedFromIdle : Prop :=
  ∀ (s : State) (n : Half) (bs : List Byte), s.rx.state = .sof → validFrame bs n s.cfg.sof →
    n ≤ s.cfg.maxDlen →
    ∃ r : Rx, r.state = .sof ∧ rxFeed bs s = .next { s with
      rx := r,
      outputs := s.outputs ++ List.replicate (n.toNat + 8) (.event .none) ++
        [.event (acceptedEvent s.cfg s.rx.prevSeq bs n)] }

/-- A frame cut short, then RX.ABORT, then a valid frame: the valid frame is accepted (42_receiver.md
section 4 and derived in section 5; 95_test_vectors.md V-RX-04b). -/
def Obligations.AbortThenFrameAccepted : Prop :=
  ∀ (s : State) (n : Half) (junk bs : List Byte), s.rx.inRange s.cfg → validFrame bs n s.cfg.sof →
    n ≤ s.cfg.maxDlen →
    ∃ (s₁ s₂ s₃ : State), rxFeed junk s = .next s₁ ∧ exec .rxAbort s₁ = .next s₂ ∧
      rxFeed bs s₂ = .next s₃ ∧ s₃.rx.state = .sof ∧
      s₃.outputs = s₂.outputs ++ List.replicate (n.toNat + 8) (.event .none) ++
        [.event (acceptedEvent s.cfg s₁.rx.prevSeq bs n)]

/-- Loop-back: the frame TX.BUILD returns, fed to the block's own idle receiver, ends with the command id
and the payload it was built from, if the payload fits the buffer, the id is subscribed and duplicate
suppression is off (30_encoding.md section 6; derived from 41_frame_codec.md and 42_receiver.md). -/
def Obligations.LoopbackDispatches : Prop :=
  ∀ (s : State) (cmd : Half) (p : List Byte), s.rx.state = .sof → p.length ≤ s.cfg.maxDlen.toNat →
    s.cfg.dupSuppress = false → subscribed s.cfg cmd = true →
    ∃ (f : List Byte) (t : State), loopback cmd p s = .next t ∧ t.rx.state = .sof ∧
      t.txSeq = s.txSeq + 1#8 ∧ f.length = p.length + 9 ∧
      t.outputs = s.outputs ++ [.frame f] ++ List.replicate (p.length + 8) (.event .none) ++
        [.event (.dispatch cmd p)]

/-- Liveness: from every state of 10_state.md section 9 the receiver is in state SOF after at most
8 + CFG.MAX_DLEN further bytes, whatever they are (derived in 42_receiver.md section 5). -/
def Obligations.ReturnsToSofWithinBound : Prop :=
  ∀ (s : State) (bs : List Byte), s.rx.inRange s.cfg → bs.length = 8 + s.cfg.maxDlen.toNat →
    ∃ (k : Nat) (t : State), k ≤ bs.length ∧ rxFeed (bs.take k) s = .next t ∧ t.rx.state = .sof

/-- What a false start swallows, D being the two bytes after the marker: 3 bytes if D exceeds
`CFG.MAX_DLEN`; otherwise 5 if the CRC8 check fails; otherwise 9 + D. Before that the receiver is not in
state SOF (derived in 42_receiver.md section 5). -/
def Obligations.FalseStartCost : Prop :=
  ∀ (s : State) (bs : List Byte), s.rx.state = .sof → byteAt bs 0 = s.cfg.sof →
    let d := le16 (byteAt bs 1) (byteAt bs 2)
    let swallows := fun (cost : Nat) (e : Event → Prop) => cost ≤ bs.length →
      (∃ (t : State) (ev : Event), rxFeed (bs.take cost) s = .next t ∧ t.rx.state = .sof ∧ e ev ∧
        t.outputs = s.outputs ++ List.replicate (cost - 1) (.event .none) ++ [.event ev]) ∧
      (∀ k, 0 < k → k < cost → ∃ t : State, rxFeed (bs.take k) s = .next t ∧ t.rx.state ≠ .sof)
    (s.cfg.maxDlen < d → swallows 3 (fun e => e = .dlenOverflow)) ∧
    (d ≤ s.cfg.maxDlen → byteAt bs 4 ≠ crc8 (slice bs 0 4) → swallows 5 (fun e => e = .crc8Mismatch)) ∧
    (d ≤ s.cfg.maxDlen → byteAt bs 4 = crc8 (slice bs 0 4) → swallows (9 + d.toNat) (fun e => 4#3 ≤ e.code))
end

