-- ==== Sys2Proof/Laws/Codec.lean ====
section
/-!
SUPPORT. The laws of the operand forms and of the frame codec: little-endian assembly inverts
disassembly (30_encoding.md R74), the length of a built frame (R71), and what VAL.PARSE's tests say
(41_frame_codec.md R136).
-/

namespace Sys2Proof.Machine

@[simp] theorem loByte_le16 (lo hi : Byte) : loByte (le16 lo hi) = lo := by
  refine BitVec.eq_of_getLsbD_eq fun i hi' => ?_
  simp only [loByte, le16, BitVec.getLsbD_extractLsb', BitVec.getLsbD_append]
  simp [hi']

@[simp] theorem hiByte_le16 (lo hi : Byte) : hiByte (le16 lo hi) = hi := by
  refine BitVec.eq_of_getLsbD_eq fun i hi' => ?_
  simp only [hiByte, le16, BitVec.getLsbD_extractLsb', BitVec.getLsbD_append]
  simp [hi']

@[simp] theorem le16_loByte_hiByte (v : Half) : le16 (loByte v) (hiByte v) = v := by
  refine BitVec.eq_of_getLsbD_eq fun i hi => ?_
  simp only [le16, loByte, hiByte, BitVec.getLsbD_append, BitVec.getLsbD_extractLsb']
  split
  · rename_i h; simp [h]
  · rename_i h
    have h1 : i - 8 < 8 := by omega
    have h2 : 8 + (i - 8) = i := by omega
    simp [h1, h2]

/-- `le16(lo, hi) = lo + 256*hi` (00_scope.md R16). -/
theorem le16_toNat (lo hi : Byte) : (le16 lo hi).toNat = lo.toNat + 256 * hi.toNat := by
  have := lo.isLt
  rw [le16, BitVec.toNat_append, ← Nat.shiftLeft_add_eq_or_of_lt this, Nat.shiftLeft_eq]
  omega

/-- The first byte of a 16-bit field, zero-extended, keeps its low byte (10_state.md R24). -/
@[simp] theorem loByte_zext16 (b : Byte) : loByte (zext16 b) = b := by
  refine BitVec.eq_of_getLsbD_eq fun i hi => ?_
  have : i < 16 := by omega
  simp [loByte, zext16, hi, this]

@[simp] theorem hiByte_zext16 (b : Byte) : hiByte (zext16 b) = 0#8 := by
  refine BitVec.eq_of_getLsbD_eq fun i hi => ?_
  simp [hiByte, zext16, hi]

/-- The lengths of the frame's parts (30_encoding.md R70, R71). -/
@[simp] theorem frameHeader_length (sof seq : Byte) (n : Half) : (frameHeader sof seq n).length = 4 := rfl

@[simp] theorem frameBody_length (sof seq : Byte) (cmd : Half) (p : List Byte) :
    (frameBody sof seq cmd p).length = p.length + 7 := by
  simp [frameBody]; omega

@[simp] theorem buildFrame_length (sof seq : Byte) (cmd : Half) (p : List Byte) :
    (buildFrame sof seq cmd p).length = p.length + 9 := by
  simp [buildFrame]

/-- The body written out: seven bytes, then the payload. -/
theorem frameBody_eq (sof seq : Byte) (cmd : Half) (p : List Byte) :
    frameBody sof seq cmd p =
      sof :: loByte (BitVec.ofNat 16 p.length) :: hiByte (BitVec.ofNat 16 p.length) :: seq ::
        crc8 (frameHeader sof seq (BitVec.ofNat 16 p.length)) :: loByte cmd :: hiByte cmd :: p := rfl

/-- A frame is its body and the two bytes of the body's CRC16. -/
theorem buildFrame_eq (sof seq : Byte) (cmd : Half) (p : List Byte) :
    buildFrame sof seq cmd p = frameBody sof seq cmd p ++
      [loByte (crc16 (frameBody sof seq cmd p)), hiByte (crc16 (frameBody sof seq cmd p))] := rfl

/-- A slice from the start is a list's first bytes. -/
theorem slice_zero (bs : List Byte) (n : Nat) : slice bs 0 n = bs.take n := rfl

/-- The five tests all pass exactly for a valid frame (41_frame_codec.md R136; 30_encoding.md R75). -/
theorem parseReason_eq_ok (sof : Byte) (n : Half) (bs : List Byte) :
    parseReason sof n bs = .ok ↔ validFrame bs n sof := by
  unfold parseReason validFrame
  split
  · simp_all
  · split
    · simp_all
    · split
      · simp_all
      · split
        · simp_all
        · split <;> simp_all

/-- VAL.PARSE's result, by its reason. -/
theorem parseFrame_of_ok {sof : Byte} {n : Half} {bs : List Byte} (h : parseReason sof n bs = .ok) :
    parseFrame sof n bs = some (frameCmd bs, framePayload bs n.toNat) := by
  simp [parseFrame, h]

theorem parseFrame_of_not_ok {sof : Byte} {n : Half} {bs : List Byte} (h : parseReason sof n bs ≠ .ok) :
    parseFrame sof n bs = none := by
  unfold parseFrame
  split <;> simp_all

end Sys2Proof.Machine
end

