-- ==== Sys2Proof/Laws/Crc.lean ====
section
/-!
SUPPORT. The small lemmas of the CRC functions (40_crc.md R103 to R106): feeding a sequence byte by
byte and in two parts, finalisation, and that a step and the eight steps respect XOR.
-/

namespace Sys2Proof.Machine

@[simp] theorem feedAll8_nil (a : Byte) : feedAll8 a [] = a := rfl
@[simp] theorem feedAll8_cons (a b : Byte) (bs : List Byte) :
    feedAll8 a (b :: bs) = feedAll8 (feed8 a b) bs := rfl
theorem feedAll8_append (a : Byte) (xs ys : List Byte) :
    feedAll8 a (xs ++ ys) = feedAll8 (feedAll8 a xs) ys := List.foldl_append ..

@[simp] theorem feedAll16_nil (a : Half) : feedAll16 a [] = a := rfl
@[simp] theorem feedAll16_cons (a : Half) (b : Byte) (bs : List Byte) :
    feedAll16 a (b :: bs) = feedAll16 (feed16 a b) bs := rfl
theorem feedAll16_append (a : Half) (xs ys : List Byte) :
    feedAll16 a (xs ++ ys) = feedAll16 (feedAll16 a xs) ys := List.foldl_append ..

theorem crc8_eq (bs : List Byte) : crc8 bs = value8 (feedAll8 init8 bs) := rfl
theorem crc16_eq (bs : List Byte) : crc16 bs = value16 (feedAll16 init16 bs) := rfl

theorem getLsbD_reflect {n : Nat} (v : BitVec n) (i : Nat) : (reflect v).getLsbD i = v.getMsbD i :=
  BitVec.getLsbD_reverse

/-- Bit reversal respects XOR. -/
theorem reflect_xor {n : Nat} (u v : BitVec n) : reflect (u ^^^ v) = reflect u ^^^ reflect v := by
  refine BitVec.eq_of_getLsbD_eq fun i _ => ?_
  simp [getLsbD_reflect]

/-- One step respects XOR (40_crc.md R104: only XOR and shifts). -/
theorem crcShift_xor {w : Nat} (poly a c : BitVec w) :
    crcShift poly (a ^^^ c) = crcShift poly a ^^^ crcShift poly c := by
  have hs : (a ^^^ c) <<< 1 = (a <<< 1) ^^^ (c <<< 1) := BitVec.shiftLeft_xor_distrib a c 1
  have hxx (x : BitVec w) : poly ^^^ (poly ^^^ x) = x := by
    rw [← BitVec.xor_assoc, BitVec.xor_self, BitVec.zero_xor]
  unfold crcShift
  cases ha : a.msb <;> cases hc : c.msb <;> simp only [BitVec.msb_xor, ha, hc, hs] <;> simp
  · ac_rfl
  · ac_rfl
  · rw [show a <<< 1 ^^^ poly ^^^ (c <<< 1 ^^^ poly) = poly ^^^ (poly ^^^ (a <<< 1 ^^^ c <<< 1)) by ac_rfl, hxx]

/-- Any number of steps respects XOR. -/
theorem crcShifts_xor {w : Nat} (poly : BitVec w) (k : Nat) (a c : BitVec w) :
    crcShifts poly k (a ^^^ c) = crcShifts poly k a ^^^ crcShifts poly k c := by
  induction k generalizing a c with
  | zero => rfl
  | succ k ih => rw [crcShifts, crcShift_xor, ih]; rfl

theorem crcShifts_add {w : Nat} (poly : BitVec w) (j k : Nat) (a : BitVec w) :
    crcShifts poly (j + k) a = crcShifts poly k (crcShifts poly j a) := by
  induction j generalizing a with
  | zero => simp [crcShifts]
  | succ j ih => rw [Nat.succ_add, crcShifts, ih]; rfl

theorem lsbShifts_add {w : Nat} (poly : BitVec w) (j k : Nat) (a : BitVec w) :
    lsbShifts poly (j + k) a = lsbShifts poly k (lsbShifts poly j a) := by
  induction j generalizing a with
  | zero => simp [lsbShifts]
  | succ j ih => rw [Nat.succ_add, lsbShifts, ih]; rfl

end Sys2Proof.Machine
end

