-- ==== Sys2Proof/Laws/Memory.lean ====
section
/-!
SUPPORT. The laws of `rx_buf` (10_state.md R34): read after write, and that every operation keeps the
canonical form.
-/

namespace Sys2Proof.Machine

@[simp] theorem Memory.read_nil (i : Nat) : Memory.read [] i = none := rfl

/-- The index written reads as the byte written. -/
@[simp] theorem Memory.read_write_same (m : Memory) (i : Nat) (v : Byte) :
    (Memory.write m i v).read i = some v := by
  induction m with
  | nil => simp [Memory.write, Memory.read]
  | cons c m ih =>
    obtain ⟨k, x⟩ := c
    simp only [Memory.write]
    split
    · simp [Memory.read]
    · split
      · simp [Memory.read]
      · rename_i h
        simp [Memory.read, Ne.symm h, ih]

/-- Every other index reads as before. -/
theorem Memory.read_write_other (m : Memory) {i j : Nat} (v : Byte) (h : j ≠ i) :
    (Memory.write m i v).read j = m.read j := by
  induction m with
  | nil => simp [Memory.write, Memory.read, Ne.symm h]
  | cons c m ih =>
    obtain ⟨k, x⟩ := c
    simp only [Memory.write]
    split
    · simp [Memory.read, Ne.symm h]
    · split
      · rename_i e
        subst e
        simp [Memory.read, Ne.symm h]
      · simp [Memory.read, ih]

/-- One write, read anywhere. -/
theorem Memory.read_write (m : Memory) (i j : Nat) (v : Byte) :
    (Memory.write m i v).read j = if j = i then some v else m.read j := by
  split
  · subst j; exact Memory.read_write_same m i v
  · exact Memory.read_write_other m v ‹_›

/-- What a write lists: the new cell and cells that were listed. -/
theorem Memory.mem_write {m : Memory} {i : Nat} {v : Byte} {c : Host.Cell}
    (h : c ∈ Memory.write m i v) : c = (i, v) ∨ c ∈ m := by
  induction m with
  | nil => simpa [Memory.write] using h
  | cons d m ih =>
    obtain ⟨k, x⟩ := d
    simp only [Memory.write] at h
    split at h
    · simpa using h
    · split at h
      · rcases List.mem_cons.1 h with h | h
        · exact .inl h
        · exact .inr (List.mem_cons_of_mem _ h)
      · rcases List.mem_cons.1 h with h | h
        · exact .inr (h ▸ List.mem_cons_self)
        · exact (ih h).imp_right (List.mem_cons_of_mem _)

/-- A write keeps the canonical form. -/
theorem Memory.write_wf {m : Memory} (h : m.wf) (i : Nat) (v : Byte) : (Memory.write m i v).wf := by
  induction m with
  | nil => simp [Memory.write, Memory.wf]
  | cons d m ih =>
    obtain ⟨k, x⟩ := d
    obtain ⟨hk, hm⟩ := List.pairwise_cons.1 h
    simp only [Memory.write]
    split
    · rename_i hik
      refine List.pairwise_cons.2 ⟨?_, h⟩
      intro c hc
      rcases List.mem_cons.1 hc with rfl | hc
      · exact hik
      · exact lt_trans hik (hk c hc)
    · split
      · rename_i e
        subst e
        exact List.pairwise_cons.2 ⟨hk, hm⟩
      · refine List.pairwise_cons.2 ⟨?_, ih hm⟩
        intro c hc
        rcases Memory.mem_write hc with rfl | hc
        · show k < i
          omega
        · exact hk c hc

/-- The empty buffer is in canonical form. -/
theorem Memory.nil_wf : Memory.wf [] := List.Pairwise.nil

/-- A listed index reads as what is listed there, and nothing else reads as a written byte. -/
theorem Memory.read_eq_some_mem {m : Memory} {i : Nat} {v : Byte} (h : m.read i = some v) : (i, v) ∈ m := by
  induction m with
  | nil => simp at h
  | cons d m ih =>
    obtain ⟨k, x⟩ := d
    simp only [Memory.read] at h
    split at h
    · rename_i e
      subst e
      simp_all
    · exact List.mem_cons_of_mem _ (ih h)

/-- A written byte is read as it is; only an unwritten one is the free value (log 7). -/
theorem Memory.byte_of_read {m : Memory} {i : Nat} {v : Byte} (h : m.read i = some v) : m.byte i = v := by
  simp [Memory.byte, h]

@[simp] theorem Memory.firstBytes_length (m : Memory) (n : Nat) : (m.firstBytes n).length = n := by
  simp [Memory.firstBytes]

@[simp] theorem Memory.firstBytes_zero (m : Memory) : m.firstBytes 0 = [] := rfl

/-- The first `n + 1` bytes are the first `n` and byte `n`. -/
theorem Memory.firstBytes_succ (m : Memory) (n : Nat) : m.firstBytes (n + 1) = m.firstBytes n ++ [m.byte n] := by
  simp [Memory.firstBytes, List.range_succ]

/-- Byte `i` of the payload is the byte of `rx_buf` at index `i`. -/
theorem Memory.firstBytes_getElem? (m : Memory) {n i : Nat} (h : i < n) :
    (m.firstBytes n)[i]? = some (m.byte i) := by
  simp [Memory.firstBytes, h]

/-- Writing at or above `n` does not change the first `n` bytes. -/
theorem Memory.firstBytes_write (m : Memory) {n i : Nat} (v : Byte) (h : n ≤ i) :
    (Memory.write m i v).firstBytes n = m.firstBytes n := by
  simp only [Memory.firstBytes]
  refine List.map_congr_left fun j hj => ?_
  have : j ≠ i := by have := List.mem_range.1 hj; omega
  simp [Memory.byte, Memory.read_write_other m v this]

end Sys2Proof.Machine
end

