-- ==== Sys2Proof/Laws/PerInstr.lean ====
section
/-!
SUPPORT. Statements made instruction by instruction: the command word the encoder writes lies in the
instruction's own row of the operation table (30_encoding.md R80 "Match and mask for a decoder").
-/

namespace Sys2Proof.Laws.RowMatch

/-- The command word of `i`, under the mask 0xF00, is its row's match `op << 8`. -/
def Statement (i : Instr) : Prop := (encode i).cw &&& 0xF00#12 = i.opCode ++ 0x00#8

/-- The mask keeps the operation code and drops `arg`. -/
theorem mask_append (op : OpCode) (a : Byte) : (op ++ a : CmdWord) &&& 0xF00#12 = op ++ 0x00#8 := by
  refine BitVec.eq_of_getLsbD_eq fun i hi => ?_
  rw [show (0xF00#12 : CmdWord) = 0xF#4 ++ 0x00#8 from rfl]
  simp only [BitVec.getLsbD_and, BitVec.getLsbD_append]
  split
  · simp
  · have h : i - 8 < 4 := by omega
    rw [show (0xF#4 : OpCode) = BitVec.allOnes 4 from rfl, BitVec.getLsbD_allOnes]
    simp [h]

theorem crc8Init : Statement .crc8Init := mask_append _ _
theorem crc8Feed (b : Byte) : Statement (.crc8Feed b) := mask_append _ _
theorem crc8Value : Statement .crc8Value := mask_append _ _
theorem crc8Compute (bs : List Byte) : Statement (.crc8Compute bs) := mask_append _ _
theorem crc16Init : Statement .crc16Init := mask_append _ _
theorem crc16Feed (b : Byte) : Statement (.crc16Feed b) := mask_append _ _
theorem crc16Value : Statement .crc16Value := mask_append _ _
theorem crc16Compute (bs : List Byte) : Statement (.crc16Compute bs) := mask_append _ _
theorem txBuild (cmd : Half) (p : List Byte) : Statement (.txBuild cmd p) := mask_append _ _
theorem valParse (n : Half) (bs : List Byte) : Statement (.valParse n bs) := mask_append _ _
theorem rxByte (b : Byte) : Statement (.rxByte b) := mask_append _ _
theorem rxByteSof (b : Byte) : Statement (.rxByteSof b) := mask_append _ _
theorem rxByteDlen (b : Byte) : Statement (.rxByteDlen b) := mask_append _ _
theorem rxByteSeq (b : Byte) : Statement (.rxByteSeq b) := mask_append _ _
theorem rxByteCrc8 (b : Byte) : Statement (.rxByteCrc8 b) := mask_append _ _
theorem rxByteCmd (b : Byte) : Statement (.rxByteCmd b) := mask_append _ _
theorem rxByteData (b : Byte) : Statement (.rxByteData b) := mask_append _ _
theorem rxByteCrc16 (b : Byte) : Statement (.rxByteCrc16 b) := mask_append _ _
theorem rxAbort : Statement .rxAbort := mask_append _ _
theorem reservedC : Statement .reservedC := mask_append _ _
theorem reservedD : Statement .reservedD := mask_append _ _
theorem reservedE : Statement .reservedE := mask_append _ _
theorem sysReset : Statement .sysReset := mask_append _ _

end Sys2Proof.Laws.RowMatch
end

