-- ==== Sys2Proof/Laws/State.lean ====
section
/-!
SUPPORT. For each named update of the state, what each field is afterwards, so that no proof unfolds a
record update.
-/

namespace Sys2Proof.Machine

/-! ### `rx_clear()` (42_receiver.md R151) -/

@[simp] theorem Rx.clear_state (r : Rx) : (r.clear).state = r.state := rfl
@[simp] theorem Rx.clear_offset (r : Rx) : (r.clear).offset = 0#16 := rfl
@[simp] theorem Rx.clear_dlen (r : Rx) : (r.clear).dlen = 0#16 := rfl
@[simp] theorem Rx.clear_seq (r : Rx) : (r.clear).seq = r.seq := rfl
@[simp] theorem Rx.clear_prevSeq (r : Rx) : (r.clear).prevSeq = r.prevSeq := rfl
@[simp] theorem Rx.clear_abandon (r : Rx) : (r.clear).abandon = false := rfl
@[simp] theorem Rx.clear_cmd (r : Rx) : (r.clear).cmd = 0#16 := rfl
@[simp] theorem Rx.clear_crc16Value (r : Rx) : (r.clear).crc16Value = 0#16 := rfl
@[simp] theorem Rx.clear_c8Acc (r : Rx) : (r.clear).c8Acc = r.c8Acc := rfl
@[simp] theorem Rx.clear_c16Acc (r : Rx) : (r.clear).c16Acc = r.c16Acc := rfl
@[simp] theorem Rx.clear_buf (r : Rx) : (r.clear).buf = r.buf := rfl

/-! ### The end of a frame in progress (60_exceptions.md R202) -/

@[simp] theorem Rx.dropFrame_state (r : Rx) : (r.dropFrame).state = .sof := rfl
@[simp] theorem Rx.dropFrame_offset (r : Rx) : (r.dropFrame).offset = 0#16 := rfl
@[simp] theorem Rx.dropFrame_dlen (r : Rx) : (r.dropFrame).dlen = 0#16 := rfl
@[simp] theorem Rx.dropFrame_seq (r : Rx) : (r.dropFrame).seq = r.seq := rfl
@[simp] theorem Rx.dropFrame_prevSeq (r : Rx) : (r.dropFrame).prevSeq = r.prevSeq := rfl
@[simp] theorem Rx.dropFrame_abandon (r : Rx) : (r.dropFrame).abandon = false := rfl
@[simp] theorem Rx.dropFrame_cmd (r : Rx) : (r.dropFrame).cmd = 0#16 := rfl
@[simp] theorem Rx.dropFrame_crc16Value (r : Rx) : (r.dropFrame).crc16Value = 0#16 := rfl
@[simp] theorem Rx.dropFrame_c8Acc (r : Rx) : (r.dropFrame).c8Acc = r.c8Acc := rfl
@[simp] theorem Rx.dropFrame_c16Acc (r : Rx) : (r.dropFrame).c16Acc = r.c16Acc := rfl
@[simp] theorem Rx.dropFrame_buf (r : Rx) : (r.dropFrame).buf = r.buf := rfl

/-! ### Re-seeding (42_receiver.md R154) -/

@[simp] theorem Rx.seed_state (r : Rx) : (r.seed).state = r.state := rfl
@[simp] theorem Rx.seed_offset (r : Rx) : (r.seed).offset = r.offset := rfl
@[simp] theorem Rx.seed_dlen (r : Rx) : (r.seed).dlen = r.dlen := rfl
@[simp] theorem Rx.seed_seq (r : Rx) : (r.seed).seq = r.seq := rfl
@[simp] theorem Rx.seed_prevSeq (r : Rx) : (r.seed).prevSeq = r.prevSeq := rfl
@[simp] theorem Rx.seed_abandon (r : Rx) : (r.seed).abandon = r.abandon := rfl
@[simp] theorem Rx.seed_cmd (r : Rx) : (r.seed).cmd = r.cmd := rfl
@[simp] theorem Rx.seed_crc16Value (r : Rx) : (r.seed).crc16Value = r.crc16Value := rfl
@[simp] theorem Rx.seed_c8Acc (r : Rx) : (r.seed).c8Acc = init8 := rfl
@[simp] theorem Rx.seed_c16Acc (r : Rx) : (r.seed).c16Acc = init16 := rfl
@[simp] theorem Rx.seed_buf (r : Rx) : (r.seed).buf = r.buf := rfl

/-! ### `feed_both` (42_receiver.md R152) -/

@[simp] theorem Rx.feedBoth_state (r : Rx) (b : Byte) : (r.feedBoth b).state = r.state := rfl
@[simp] theorem Rx.feedBoth_offset (r : Rx) (b : Byte) : (r.feedBoth b).offset = r.offset := rfl
@[simp] theorem Rx.feedBoth_dlen (r : Rx) (b : Byte) : (r.feedBoth b).dlen = r.dlen := rfl
@[simp] theorem Rx.feedBoth_seq (r : Rx) (b : Byte) : (r.feedBoth b).seq = r.seq := rfl
@[simp] theorem Rx.feedBoth_prevSeq (r : Rx) (b : Byte) : (r.feedBoth b).prevSeq = r.prevSeq := rfl
@[simp] theorem Rx.feedBoth_abandon (r : Rx) (b : Byte) : (r.feedBoth b).abandon = r.abandon := rfl
@[simp] theorem Rx.feedBoth_cmd (r : Rx) (b : Byte) : (r.feedBoth b).cmd = r.cmd := rfl
@[simp] theorem Rx.feedBoth_crc16Value (r : Rx) (b : Byte) : (r.feedBoth b).crc16Value = r.crc16Value := rfl
@[simp] theorem Rx.feedBoth_c8Acc (r : Rx) (b : Byte) : (r.feedBoth b).c8Acc = feed8 r.c8Acc b := rfl
@[simp] theorem Rx.feedBoth_c16Acc (r : Rx) (b : Byte) : (r.feedBoth b).c16Acc = feed16 r.c16Acc b := rfl
@[simp] theorem Rx.feedBoth_buf (r : Rx) (b : Byte) : (r.feedBoth b).buf = r.buf := rfl

/-! ### SYS.RESET (70_reset_and_hazards.md R220) -/

@[simp] theorem Rx.resetRegs_state (cfg : Config) (r : Rx) : (r.resetRegs cfg).state = .sof := rfl
@[simp] theorem Rx.resetRegs_offset (cfg : Config) (r : Rx) : (r.resetRegs cfg).offset = 0#16 := rfl
@[simp] theorem Rx.resetRegs_dlen (cfg : Config) (r : Rx) : (r.resetRegs cfg).dlen = 0#16 := rfl
@[simp] theorem Rx.resetRegs_seq (cfg : Config) (r : Rx) : (r.resetRegs cfg).seq = 0x00#8 := rfl
@[simp] theorem Rx.resetRegs_prevSeq (cfg : Config) (r : Rx) : (r.resetRegs cfg).prevSeq = cfg.prevSeqReset := rfl
@[simp] theorem Rx.resetRegs_abandon (cfg : Config) (r : Rx) : (r.resetRegs cfg).abandon = false := rfl
@[simp] theorem Rx.resetRegs_cmd (cfg : Config) (r : Rx) : (r.resetRegs cfg).cmd = 0#16 := rfl
@[simp] theorem Rx.resetRegs_crc16Value (cfg : Config) (r : Rx) : (r.resetRegs cfg).crc16Value = 0#16 := rfl
@[simp] theorem Rx.resetRegs_c8Acc (cfg : Config) (r : Rx) : (r.resetRegs cfg).c8Acc = init8 := rfl
@[simp] theorem Rx.resetRegs_c16Acc (cfg : Config) (r : Rx) : (r.resetRegs cfg).c16Acc = init16 := rfl
@[simp] theorem Rx.resetRegs_buf (cfg : Config) (r : Rx) : (r.resetRegs cfg).buf = r.buf := rfl
@[simp] theorem State.resetRegs_cfg (s : State) : (s.resetRegs).cfg = s.cfg := rfl
@[simp] theorem State.resetRegs_c8Acc (s : State) : (s.resetRegs).c8Acc = init8 := rfl
@[simp] theorem State.resetRegs_c16Acc (s : State) : (s.resetRegs).c16Acc = init16 := rfl
@[simp] theorem State.resetRegs_txSeq (s : State) : (s.resetRegs).txSeq = 0x00#8 := rfl
@[simp] theorem State.resetRegs_rx (s : State) : (s.resetRegs).rx = s.rx.resetRegs s.cfg := rfl
@[simp] theorem State.resetRegs_issue (s : State) : (s.resetRegs).issue = s.issue := rfl
@[simp] theorem State.resetRegs_outputs (s : State) : (s.resetRegs).outputs = s.outputs := rfl

/-! ### Returning a result (30_encoding.md R82) -/

@[simp] theorem State.emit_cfg (s : State) (o : Output) : (s.emit o).cfg = s.cfg := rfl
@[simp] theorem State.emit_c8Acc (s : State) (o : Output) : (s.emit o).c8Acc = s.c8Acc := rfl
@[simp] theorem State.emit_c16Acc (s : State) (o : Output) : (s.emit o).c16Acc = s.c16Acc := rfl
@[simp] theorem State.emit_txSeq (s : State) (o : Output) : (s.emit o).txSeq = s.txSeq := rfl
@[simp] theorem State.emit_rx (s : State) (o : Output) : (s.emit o).rx = s.rx := rfl
@[simp] theorem State.emit_issue (s : State) (o : Output) : (s.emit o).issue = s.issue := rfl
@[simp] theorem State.emit_outputs (s : State) (o : Output) : (s.emit o).outputs = s.outputs ++ [o] := rfl

/-! ### Issuing a word (log 4) -/

@[simp] theorem State.issueWord_cfg (s : State) (w : Nat) : (s.issueWord w).cfg = s.cfg := rfl
@[simp] theorem State.issueWord_c8Acc (s : State) (w : Nat) : (s.issueWord w).c8Acc = s.c8Acc := rfl
@[simp] theorem State.issueWord_c16Acc (s : State) (w : Nat) : (s.issueWord w).c16Acc = s.c16Acc := rfl
@[simp] theorem State.issueWord_txSeq (s : State) (w : Nat) : (s.issueWord w).txSeq = s.txSeq := rfl
@[simp] theorem State.issueWord_rx (s : State) (w : Nat) : (s.issueWord w).rx = s.rx := rfl
@[simp] theorem State.issueWord_issue (s : State) (w : Nat) : (s.issueWord w).issue = Issue.ofWord w :: s.issue := rfl
@[simp] theorem State.issueWord_outputs (s : State) (w : Nat) : (s.issueWord w).outputs = s.outputs := rfl

/-! ### The machine right after reset (70_reset_and_hazards.md R220) -/

@[simp] theorem State.resetWith_cfg (cfg : Config) : (State.resetWith cfg).cfg = cfg := rfl
@[simp] theorem State.resetWith_c8Acc (cfg : Config) : (State.resetWith cfg).c8Acc = 0xFF#8 := rfl
@[simp] theorem State.resetWith_c16Acc (cfg : Config) : (State.resetWith cfg).c16Acc = 0xFFFF#16 := rfl
@[simp] theorem State.resetWith_txSeq (cfg : Config) : (State.resetWith cfg).txSeq = 0x00#8 := rfl
@[simp] theorem State.resetWith_rx (cfg : Config) : (State.resetWith cfg).rx = Rx.reset cfg := rfl
@[simp] theorem State.resetWith_issue (cfg : Config) : (State.resetWith cfg).issue = [] := rfl
@[simp] theorem State.resetWith_outputs (cfg : Config) : (State.resetWith cfg).outputs = [] := rfl

/-! ### The duplicate policy (42_receiver.md R158): it writes `rx_abandon` and `rx_prev_seq` only -/

@[simp] theorem Rx.markDuplicate_state (cfg : Config) (r : Rx) (b : Byte) :
    (r.markDuplicate cfg b).state = r.state := by unfold Rx.markDuplicate; split <;> (try split) <;> rfl
@[simp] theorem Rx.markDuplicate_offset (cfg : Config) (r : Rx) (b : Byte) :
    (r.markDuplicate cfg b).offset = r.offset := by unfold Rx.markDuplicate; split <;> (try split) <;> rfl
@[simp] theorem Rx.markDuplicate_dlen (cfg : Config) (r : Rx) (b : Byte) :
    (r.markDuplicate cfg b).dlen = r.dlen := by unfold Rx.markDuplicate; split <;> (try split) <;> rfl
@[simp] theorem Rx.markDuplicate_seq (cfg : Config) (r : Rx) (b : Byte) :
    (r.markDuplicate cfg b).seq = r.seq := by unfold Rx.markDuplicate; split <;> (try split) <;> rfl
@[simp] theorem Rx.markDuplicate_cmd (cfg : Config) (r : Rx) (b : Byte) :
    (r.markDuplicate cfg b).cmd = r.cmd := by unfold Rx.markDuplicate; split <;> (try split) <;> rfl
@[simp] theorem Rx.markDuplicate_crc16Value (cfg : Config) (r : Rx) (b : Byte) :
    (r.markDuplicate cfg b).crc16Value = r.crc16Value := by unfold Rx.markDuplicate; split <;> (try split) <;> rfl
@[simp] theorem Rx.markDuplicate_c8Acc (cfg : Config) (r : Rx) (b : Byte) :
    (r.markDuplicate cfg b).c8Acc = r.c8Acc := by unfold Rx.markDuplicate; split <;> (try split) <;> rfl
@[simp] theorem Rx.markDuplicate_c16Acc (cfg : Config) (r : Rx) (b : Byte) :
    (r.markDuplicate cfg b).c16Acc = r.c16Acc := by unfold Rx.markDuplicate; split <;> (try split) <;> rfl
@[simp] theorem Rx.markDuplicate_buf (cfg : Config) (r : Rx) (b : Byte) :
    (r.markDuplicate cfg b).buf = r.buf := by unfold Rx.markDuplicate; split <;> (try split) <;> rfl

theorem Rx.markDuplicate_abandon (cfg : Config) (r : Rx) (b : Byte) :
    (r.markDuplicate cfg b).abandon = (r.abandon || (cfg.dupSuppress && b == r.prevSeq)) := by
  unfold Rx.markDuplicate; split
  · split <;> simp_all
  · simp_all

theorem Rx.markDuplicate_prevSeq (cfg : Config) (r : Rx) (b : Byte) :
    (r.markDuplicate cfg b).prevSeq = if cfg.dupSuppress then b else r.prevSeq := by
  unfold Rx.markDuplicate; split
  · split <;> simp_all
  · simp_all

end Sys2Proof.Machine
end

