-- ==== Sys2Proof/Laws/Receiver.lean ====
section
/-!
SUPPORT. What each shared operation of the receiver can do, said once: if a sub-form answers a
receiver and an event, it is one of the cases its rule lists (42_receiver.md R154 to R168); and what a
completed operation leaves.
-/

namespace Sys2Proof.Machine

/-! ### Completing an operation -/

/-- A completed operation appends its result and changes nothing else. -/
@[simp] theorem State.done_eq (s : State) (o : Output) : s.done o = .next { s with outputs := s.outputs ++ [o] } := rfl

@[simp] theorem State.finishRx_ok (s : State) (r : Rx) (e : Event) :
    s.finishRx (.ok (r, e)) = .next { s with rx := r, outputs := s.outputs ++ [.event e] } := rfl

@[simp] theorem State.finishRx_error (s : State) (f : Fault) : s.finishRx (.error f) = .fault f := rfl

/-- An RX.BYTE that completes replaces the receiver, appends one event and changes nothing else. -/
theorem State.finishRx_next {s t : State} {res : RxResult} (h : s.finishRx res = .next t) :
    ∃ r e, res = .ok (r, e) ∧ t = { s with rx := r, outputs := s.outputs ++ [.event e] } := by
  match res, h with
  | .ok (r, e), h => exact ⟨r, e, rfl, by simpa using h.symm⟩
  | .error f, h => simp at h

/-- A sub-form that completes was the one selected. -/
theorem State.finishSubForm_next {s t : State} {st : RxState} {res : RxResult}
    (h : s.finishSubForm st res = .next t) : s.rx.state = st ∧ s.finishRx res = .next t := by
  unfold State.finishSubForm at h
  split at h
  · exact ⟨‹_›, h⟩
  · cases h

/-- Where it is selected, a sub-form is RX.BYTE's case. -/
theorem State.finishSubForm_of_state {s : State} {st : RxState} (res : RxResult) (h : s.rx.state = st) :
    s.finishSubForm st res = s.finishRx res := by
  simp [State.finishSubForm, h]

/-! ### The sub-forms -/

/-- RX.BYTE@SOF (42_receiver.md R154): a discarded byte, or the start of a frame. -/
theorem rxSof_cases {cfg : Config} {r r' : Rx} {b : Byte} {e : Event} (h : rxSof cfg r b = .ok (r', e)) :
    (b ≠ cfg.sof ∧ r' = r ∧ e = .badSof) ∨
    (b = cfg.sof ∧ e = .none ∧ r' = { (r.clear.seed.feedBoth b) with state := .dlen }) := by
  unfold rxSof at h
  split at h <;> cases h
  · exact .inr ⟨‹_›, rfl, rfl⟩
  · exact .inl ⟨‹_›, rfl, rfl⟩

/-- RX.BYTE@DLEN (42_receiver.md R156): the low byte, a length that does not fit, or one that does. -/
theorem rxDlen_cases {cfg : Config} {r r' : Rx} {b : Byte} {e : Event} (h : rxDlen cfg r b = .ok (r', e)) :
    (r.offset = 0#16 ∧ e = .none ∧ r' = { (r.feedBoth b) with dlen := zext16 b, offset := 1#16 }) ∨
    (r.offset ≠ 0#16 ∧ cfg.maxDlen < le16 (loByte r.dlen) b ∧ e = .dlenOverflow ∧
      r' = (r.feedBoth b).dropFrame) ∨
    (r.offset ≠ 0#16 ∧ le16 (loByte r.dlen) b ≤ cfg.maxDlen ∧ e = .none ∧
      r' = { (r.feedBoth b) with dlen := le16 (loByte r.dlen) b, offset := 0#16, state := .seq }) := by
  by_cases ho : r.offset = 0#16
  · simp only [rxDlen, Rx.feedBoth_offset, ho, if_true] at h
    cases h; exact .inl ⟨ho, rfl, rfl⟩
  · by_cases hm : cfg.maxDlen < le16 (loByte r.dlen) b <;>
      simp only [rxDlen, Rx.feedBoth_offset, Rx.feedBoth_dlen, ho, hm, if_true, if_false] at h <;> cases h
    · exact .inr (.inl ⟨ho, hm, rfl, rfl⟩)
    · exact .inr (.inr ⟨ho, BitVec.not_lt.1 hm, rfl, rfl⟩)

/-- RX.BYTE@SEQ (42_receiver.md R158). -/
theorem rxSeq_cases {cfg : Config} {r r' : Rx} {b : Byte} {e : Event} (h : rxSeq cfg r b = .ok (r', e)) :
    e = .none ∧ r' = { ({ (r.feedBoth b) with seq := b }.markDuplicate cfg b) with state := .crc8 } := by
  cases h; exact ⟨rfl, rfl⟩

/-- RX.BYTE@CRC8 (42_receiver.md R160): the header check passes, or the frame is dropped. -/
theorem rxCrc8_cases {r r' : Rx} {b : Byte} {e : Event} (h : rxCrc8 r b = .ok (r', e)) :
    (b = value8 r.c8Acc ∧ e = .none ∧ r' = { r with c16Acc := feed16 r.c16Acc b, state := .cmd }) ∨
    (b ≠ value8 r.c8Acc ∧ e = .crc8Mismatch ∧ r' = r.dropFrame) := by
  unfold rxCrc8 at h
  split at h <;> cases h
  · exact .inl ⟨‹_›, rfl, rfl⟩
  · exact .inr ⟨‹_›, rfl, rfl⟩

/-- RX.BYTE@CMD (42_receiver.md R162): the low byte, or the high byte with or without a payload to
follow. -/
theorem rxCmd_cases {r r' : Rx} {b : Byte} {e : Event} (h : rxCmd r b = .ok (r', e)) :
    e = .none ∧
    ((r.offset = 0#16 ∧ r' = { (r.feedBoth b) with cmd := zext16 b, offset := 1#16 }) ∨
     (r.offset ≠ 0#16 ∧ r.dlen = 0#16 ∧
        r' = { (r.feedBoth b) with cmd := le16 (loByte r.cmd) b, offset := 0#16, state := .crc16 }) ∨
     (r.offset ≠ 0#16 ∧ r.dlen ≠ 0#16 ∧
        r' = { (r.feedBoth b) with cmd := le16 (loByte r.cmd) b, offset := 0#16, state := .data })) := by
  by_cases ho : r.offset = 0#16
  · simp only [rxCmd, Rx.feedBoth_offset, ho, if_true] at h
    cases h; exact ⟨rfl, .inl ⟨ho, rfl⟩⟩
  · by_cases hd : r.dlen = 0#16 <;>
      simp only [rxCmd, Rx.feedBoth_offset, Rx.feedBoth_dlen, Rx.feedBoth_cmd, ho, hd, if_true, if_false] at h <;>
      cases h
    · exact ⟨rfl, .inr (.inl ⟨ho, hd, by simp [hd]⟩)⟩
    · exact ⟨rfl, .inr (.inr ⟨ho, hd, rfl⟩)⟩

/-- RX.BYTE@DATA (42_receiver.md R164): one more payload byte, the last one or not. -/
theorem rxData_cases {cfg : Config} {r r' : Rx} {b : Byte} {e : Event} (h : rxData cfg r b = .ok (r', e)) :
    r.offset < cfg.maxDlen ∧ e = .none ∧
    ((r.offset + 1#16 = r.dlen ∧
        r' = { (r.feedBoth b) with buf := r.buf.write r.offset.toNat b, offset := 0#16, state := .crc16 }) ∨
     (r.offset + 1#16 ≠ r.dlen ∧
        r' = { (r.feedBoth b) with buf := r.buf.write r.offset.toNat b, offset := r.offset + 1#16 })) := by
  by_cases hm : r.offset < cfg.maxDlen
  · by_cases hl : r.offset + 1#16 = r.dlen <;>
      simp only [rxData, Rx.feedBoth_dlen, hm, hl, if_true, if_false] at h <;> cases h
    · exact ⟨hm, rfl, .inl ⟨hl, rfl⟩⟩
    · exact ⟨hm, rfl, .inr ⟨hl, rfl⟩⟩
  · simp only [rxData, hm, if_false] at h
    cases h

/-- RX.BYTE@CRC16 (42_receiver.md R166): the low byte, or the end of the frame. -/
theorem rxCrc16_cases {cfg : Config} {r r' : Rx} {b : Byte} {e : Event} (h : rxCrc16 cfg r b = .ok (r', e)) :
    (r.offset = 0#16 ∧ e = .none ∧ r' = { r with crc16Value := zext16 b, offset := 1#16 }) ∨
    (r.offset ≠ 0#16 ∧ r' = r.dropFrame ∧
      { r with crc16Value := le16 (loByte r.crc16Value) b }.frameEndEvent cfg = .ok e) := by
  unfold rxCrc16 at h
  split at h
  · cases h; exact .inl ⟨‹_›, rfl, rfl⟩
  · right
    simp only [Except.map] at h
    split at h
    · cases h
    · cases h; exact ⟨‹_›, rfl, ‹_›⟩

/-- The frame-end decision (42_receiver.md R168), reason by reason. -/
theorem frameEndEvent_cases {cfg : Config} {r : Rx} {e : Event} (h : r.frameEndEvent cfg = .ok e) :
    (value16 r.c16Acc ≠ r.crc16Value ∧ e = .crc16Mismatch) ∨
    (value16 r.c16Acc = r.crc16Value ∧ r.abandon = true ∧ e = .duplicate) ∨
    (value16 r.c16Acc = r.crc16Value ∧ r.abandon = false ∧ subscribed cfg r.cmd = false ∧
      e = .unknownCmd r.cmd r.dlen) ∨
    (value16 r.c16Acc = r.crc16Value ∧ r.abandon = false ∧ subscribed cfg r.cmd = true ∧
      r.dlen ≤ cfg.maxDlen ∧ e = .dispatch r.cmd (r.buf.firstBytes r.dlen.toNat)) := by
  unfold Rx.frameEndEvent at h
  split at h
  · cases h; exact .inl ⟨‹_›, rfl⟩
  · split at h
    · cases h; simp_all
    · split at h
      · cases h; simp_all
      · unfold Rx.payload at h
        split at h
        · simp only [Except.map] at h
          cases h
          simp_all
        · simp [Except.map] at h

/-- With `rx_dlen` within the buffer the frame-end decision always answers. -/
theorem frameEndEvent_total {cfg : Config} {r : Rx} (h : r.dlen ≤ cfg.maxDlen) :
    ∃ e, r.frameEndEvent cfg = .ok e := by
  have hp : r.payload cfg = .ok (r.buf.firstBytes r.dlen.toNat) := if_pos h
  unfold Rx.frameEndEvent
  split
  · exact ⟨_, rfl⟩
  · split
    · exact ⟨_, rfl⟩
    · split
      · exact ⟨_, rfl⟩
      · exact ⟨_, by rw [hp]; rfl⟩

/-! ### The events of a run of bytes -/

@[simp] theorem reportedEvent_none : reportedEvent (.event .none) = none := rfl

/-- An event other than EV_NONE is reported. -/
theorem reportedEvent_event {e : Event} (h : e ≠ .none) : reportedEvent (.event e) = some e := if_neg h

@[simp] theorem taggedEvents_nil (k : Nat) : taggedEvents k [] = [] := rfl

/-- A byte that reports nothing only counts. -/
@[simp] theorem taggedEvents_none (k : Nat) (os : List Output) :
    taggedEvents k (.event .none :: os) = taggedEvents (k + 1) os := rfl

/-- A byte that reports an event is tagged with its index. -/
theorem taggedEvents_event (k : Nat) {e : Event} (h : e ≠ .none) (os : List Output) :
    taggedEvents k (.event e :: os) = (k, e) :: taggedEvents (k + 1) os := by
  simp [taggedEvents, reportedEvent_event h]

/-- What the tagged events of a run are: at index `k + i` the event of byte `i`, if it is not EV_NONE. -/
theorem mem_taggedEvents (k : Nat) (es : List Event) (j : Nat) (e : Event) :
    (j, e) ∈ taggedEvents k (es.map .event) ↔ k ≤ j ∧ es[j - k]? = some e ∧ e ≠ .none := by
  induction es generalizing k with
  | nil => simp
  | cons d es ih =>
    have tail : (k + 1 ≤ j ∧ es[j - (k + 1)]? = some e ∧ e ≠ .none) ↔
        k < j ∧ (d :: es)[j - k]? = some e ∧ e ≠ .none := by
      refine and_congr_right fun h => ?_
      rw [show j - k = (j - (k + 1)) + 1 by omega, List.getElem?_cons_succ]
    have split_le : k ≤ j ↔ j = k ∨ k < j := by omega
    rw [List.map_cons, split_le, or_and_right, ← tail]
    by_cases hd : d = .none
    · subst hd
      rw [taggedEvents_none, ih]
      refine ⟨.inr, fun h => h.resolve_left ?_⟩
      rintro ⟨rfl, h, hne⟩
      simp only [Nat.sub_self, List.getElem?_cons_zero, Option.some.injEq] at h
      exact hne h.symm
    · rw [taggedEvents_event k hd, List.mem_cons, ih]
      refine or_congr_left ⟨?_, ?_⟩
      · rintro ⟨⟩
        simp [hd]
      · rintro ⟨rfl, h, -⟩
        simpa using h.symm

end Sys2Proof.Machine
end

