-- ==== Sys2Proof/Laws/Step.lean ====
section
/-!
SUPPORT. Runs: one step, a run cut in two, and RX.FEED as a run of the receiver alone (30_encoding.md
R89).
-/

namespace Sys2Proof.Machine

/-- The operation taken is the oldest issued, and it is removed. -/
@[simp] theorem State.fetch_cons {s : State} {o : Issue} {rest : List Issue} (h : s.issue = o :: rest) :
    s.fetch = some (o, { s with issue := rest }) := by
  simp [State.fetch, h]

@[simp] theorem State.fetch_nil {s : State} (h : s.issue = []) : s.fetch = none := by
  simp [State.fetch, h]

@[simp] theorem run_zero (s : State) : run 0 s = .next s := rfl

/-- A run of `k + 1` steps is one step and a run of `k`. -/
theorem run_succ (k : Nat) (s : State) :
    run (k + 1) s =
      match step s with
      | .next t    => run k t
      | .fault f   => .fault f
      | .refused r => .refused r := by
  simp only [run, Host.Core.run]
  rw [show Sys2Proof.core.step s = step s from rfl]
  cases step s <;> rfl

/-- The operation code of an encoded operation is its row's. -/
@[simp] theorem encode_op (i : Instr) : (encode i).op = i.opCode := by
  refine BitVec.eq_of_getLsbD_eq fun k hk => ?_
  simp only [Issue.op, encode, BitVec.getLsbD_extractLsb', BitVec.getLsbD_append]
  simp [hk]

/-- The `arg` of an encoded operation is its byte operand. -/
@[simp] theorem encode_arg (i : Instr) : (encode i).arg = i.argByte := by
  refine BitVec.eq_of_getLsbD_eq fun k hk => ?_
  simp only [Issue.arg, encode, BitVec.getLsbD_extractLsb', BitVec.getLsbD_append]
  simp [hk]

/-- RX.BYTE's command word is read as RX.BYTE. -/
theorem decode_encode_rxByte (b : Byte) : decode (encode (.rxByte b)) = .ok (.rxByte b) := by
  simp [decode, Instr.opCode, Instr.argByte]

/-- One RX.BYTE taken from the waiting operations. -/
theorem step_rxByte {s : State} {b : Byte} {rest : List Issue} (h : s.issue = encode (.rxByte b) :: rest) :
    step s = exec (.rxByte b) { s with issue := rest } := by
  simp only [step, State.fetch_cons h, decode_encode_rxByte]

@[simp] theorem rxRun_nil (cfg : Config) (r : Rx) : rxRun cfg r [] = .ok (r, []) := rfl

/-- The first byte of a run of the receiver. -/
theorem rxRun_cons_ok {cfg : Config} {r r' : Rx} {b : Byte} {e : Event} (bs : List Byte)
    (h : rxStep cfg r b = .ok (r', e)) :
    rxRun cfg r (b :: bs) = (rxRun cfg r' bs).map fun p => (p.1, e :: p.2) := by
  simp only [rxRun, h]
  cases hr : rxRun cfg r' bs <;> simp [bind, Except.bind, hr, Except.map]

theorem rxRun_cons_error {cfg : Config} {r : Rx} {b : Byte} {f : Fault} (bs : List Byte)
    (h : rxStep cfg r b = .error f) : rxRun cfg r (b :: bs) = .error f := by
  simp [rxRun, h, bind, Except.bind]

/-- A run over two sequences is a run over the first and one over the second. -/
theorem rxRun_append {cfg : Config} {r r' : Rx} {xs : List Byte} {es : List Event} (ys : List Byte)
    (h : rxRun cfg r xs = .ok (r', es)) :
    rxRun cfg r (xs ++ ys) = (rxRun cfg r' ys).map fun p => (p.1, es ++ p.2) := by
  induction xs generalizing r es with
  | nil =>
    cases h
    cases hr : rxRun cfg r' ys <;> simp [Except.map, hr]
  | cons b xs ih =>
    cases hs : rxStep cfg r b with
    | error f => rw [rxRun_cons_error _ hs] at h; cases h
    | ok p =>
      obtain ⟨r1, e⟩ := p
      rw [rxRun_cons_ok _ hs] at h
      cases hr : rxRun cfg r1 xs with
      | error f => rw [hr] at h; cases h
      | ok q =>
        obtain ⟨r2, es'⟩ := q
        rw [hr] at h
        simp only [Except.map] at h
        cases h
        rw [List.cons_append, rxRun_cons_ok _ hs, ih hr]
        cases rxRun cfg r' ys <;> rfl

/-- RX.FEED is a run of the receiver alone: it replaces the receiver, appends one event for each byte
and changes nothing else. -/
theorem rxFeed_eq (bs : List Byte) (s : State) :
    rxFeed bs s =
      match rxRun s.cfg s.rx bs with
      | .ok (r, es) => .next { s with rx := r, outputs := s.outputs ++ es.map .event }
      | .error f    => .fault f := by
  induction bs generalizing s with
  | nil => simp [rxFeed, runProgram]
  | cons b bs ih =>
    have hstep : step { s with issue := encode (.rxByte b) :: ((bs.map Instr.rxByte).map encode ++ s.issue) } =
        State.finishRx { s with issue := (bs.map Instr.rxByte).map encode ++ s.issue } (rxStep s.cfg s.rx b) := by
      rw [step_rxByte (rest := (bs.map Instr.rxByte).map encode ++ s.issue) rfl]
      rfl
    have hrun : rxFeed (b :: bs) s = run (bs.length + 1)
        { s with issue := encode (.rxByte b) :: ((bs.map Instr.rxByte).map encode ++ s.issue) } := by
      simp [rxFeed, runProgram]
    rw [hrun, run_succ, hstep]
    cases hs : rxStep s.cfg s.rx b with
    | error f => simp [rxRun_cons_error _ hs]
    | ok p =>
      obtain ⟨r, e⟩ := p
      have := ih { s with rx := r, outputs := s.outputs ++ [.event e] }
      simp only [rxFeed, runProgram, List.length_map] at this
      rw [rxRun_cons_ok _ hs]
      simp only [State.finishRx_ok, this]
      cases rxRun s.cfg r bs <;> simp [Except.map]

/-- RX.FEED's result is the tagged events of the run of the receiver (30_encoding.md R89). -/
theorem rxFeedResult_eq (bs : List Byte) (s : State) :
    rxFeedResult bs s =
      match rxRun s.cfg s.rx bs with
      | .ok (r, es) =>
        .next ({ s with rx := r, outputs := s.outputs ++ es.map .event }, taggedEvents 0 (es.map .event))
      | .error f    => .fault f := by
  rw [rxFeedResult, rxFeed_eq]
  cases rxRun s.cfg s.rx bs <;> simp

end Sys2Proof.Machine
end

