-- ==== Sys2Proof/Tests/Slice0.lean ====
section
/-!
SUPPORT. The model's own tests: the well-formedness check, the decoding of words written out bit by bit
from 30_encoding.md R80, one-step tests against the derived vectors of 95_test_vectors.md, and for every
statement with hypotheses a concrete state and operands that meet them. Expected values are the spec's.
-/

namespace Sys2Proof.Tests

open Sys2Proof.Machine

/-! ### Small states -/

/-- A machine with a 4-byte buffer and no duplicate suppression; every id has a subscriber. -/
def cfg4 : Config :=
  { sof := 0x05#8, dupSuppress := false, maxDlen := 4#16,
    subscribed := { everyId := true, exceptions := [] }, prevSeqReset := 0xFF#8 }

/-- The same with duplicate suppression. -/
def cfgDup : Config := { cfg4 with dupSuppress := true }

/-- The same with no subscriber for 0x0001. -/
def cfgNoSub : Config := { cfg4 with subscribed := { everyId := true, exceptions := [0x0001#16] } }

/-- A state with receiver `r`, everything else as after reset. -/
def withRx (cfg : Config) (r : Rx) : State := { State.resetWith cfg with rx := r }

/-- A receiver of the trace V-RX-01: state, offset, length and accumulators. -/
def rxAt (st : RxState) (offset dlen : Half) (c8 : Byte) (c16 : Half) : Rx :=
  { Rx.reset cfg4 with state := st, offset := offset, dlen := dlen, c8Acc := c8, c16Acc := c16 }

/-- The receiver and the last result after one operation. -/
def after (i : Instr) (s : State) : Option (Rx × Option Output) :=
  match exec i s with
  | .next t => some (t.rx, t.outputs.getLast?)
  | .fault _ | .refused _ => none

/-- The outcome is a next state. -/
def goesOn (o : Host.Outcome State Fault Refusal) : Bool :=
  match o with
  | .next _ => true
  | .fault _ | .refused _ => false

/-- The next state of an outcome. -/
def next? (o : Host.Outcome State Fault Refusal) : Option State :=
  match o with
  | .next t => some t
  | .fault _ | .refused _ => none

theorem of_next? {o : Host.Outcome State Fault Refusal} {t : State} (h : next? o = some t) : o = .next t := by
  cases o <;> simp_all [next?]

/-- The frame fA of 95_test_vectors.md V-TX-02. -/
def fA : List Byte := [0x05#8, 0x01#8, 0x00#8, 0x00#8, 0xC1#8, 0x01#8, 0x00#8, 0xA5#8, 0x21#8, 0xFB#8]

def inSof : Rx := rxAt .sof 0#16 0#16 0xFF#8 0xFFFF#16
def inDlen0 : Rx := rxAt .dlen 0#16 0#16 0x50#8 0x541A#16
def inDlen1 : Rx := rxAt .dlen 1#16 1#16 0x04#8 0x91F9#16
def inSeq : Rx := rxAt .seq 0#16 1#16 0xC4#8 0x6A98#16
def inCrc8 : Rx := rxAt .crc8 0#16 1#16 0x83#8 0x55EC#16
def inCmd0 : Rx := rxAt .cmd 0#16 1#16 0x83#8 0x47BB#16
def inCmd1 : Rx := { rxAt .cmd 1#16 1#16 0x53#8 0x12AB#16 with cmd := 1#16 }
def inData : Rx := { rxAt .data 0#16 1#16 0x2D#8 0x9973#16 with cmd := 1#16 }
def inCrc0 : Rx := { rxAt .crc16 0#16 1#16 0xC3#8 0x84DF#16 with cmd := 1#16, buf := [(0, 0xA5#8)] }
def inCrc1 : Rx := { inCrc0 with offset := 1#16, crc16Value := 0x0021#16 }
/-- The receiver after fA: stale accumulators, the payload byte still in the buffer. -/
def afterA : Rx := { rxAt .sof 0#16 0#16 0xC3#8 0x84DF#16 with buf := [(0, 0xA5#8)] }

/-! ### Well-formedness and decoding -/

/-- A payload of 65536 bytes is refused by the check (41_frame_codec.md R132), one of 65535 is not. -/
theorem test_wf_refuses_long_payload : (Instr.txBuild 0#16 (List.replicate 65536 0#8)).wf = false := by
  simp only [Instr.wf, maxPayload, List.length_replicate]
  decide

theorem test_wf_accepts_longest_payload (cmd : Half) : (Instr.txBuild cmd (List.replicate 65535 0#8)).wf = true := by
  simp only [Instr.wf, maxPayload, List.length_replicate]
  decide

/-- The words of 30_encoding.md R80, `op` in bits 11..8, `arg` in bits 7..0. -/
theorem test_decode_crc_words :
    decodeTableWord 16 0b0000_0000_0000_0000 = some .crc8Init ∧
    decodeTableWord 16 0b0000_0001_0011_0001 = some (.crc8Feed 0x31#8) ∧
    decodeTableWord 16 0b0000_0010_0000_0000 = some .crc8Value ∧
    decodeTableWord 16 0b0000_0011_0000_0000 = some (.crc8Compute []) ∧
    decodeTableWord 16 0b0000_0100_0000_0000 = some .crc16Init ∧
    decodeTableWord 16 0b0000_0101_1100_0001 = some (.crc16Feed 0xC1#8) ∧
    decodeTableWord 16 0b0000_0110_0000_0000 = some .crc16Value ∧
    decodeTableWord 16 0b0000_0111_0000_0000 = some (.crc16Compute []) := by decide

theorem test_decode_codec_words :
    decodeTableWord 16 0b0000_1000_0000_0000 = some (.txBuild 0#16 []) ∧
    decodeTableWord 16 0b0000_1001_0000_0000 = some (.valParse 0#16 []) ∧
    decode { cw := 0b1000_00000000#12, cmd := 0x1234#16, n := 7#16, bytes := [0xDE#8] } =
      .ok (.txBuild 0x1234#16 [0xDE#8]) ∧
    decode { cw := 0b1001_11111111#12, cmd := 0x1234#16, n := 7#16, bytes := [0xDE#8] } =
      .ok (.valParse 7#16 [0xDE#8]) ∧
    decode { cw := 0b0011_00000000#12, cmd := 0#16, n := 0#16, bytes := [0x05#8, 0x01#8] } =
      .ok (.crc8Compute [0x05#8, 0x01#8]) ∧
    decode { cw := 0b0111_00000000#12, cmd := 0#16, n := 0#16, bytes := [0x05#8] } =
      .ok (.crc16Compute [0x05#8]) := by decide

theorem test_decode_receiver_words :
    decodeTableWord 16 0b0000_1010_1101_1110 = some (.rxByte 0xDE#8) ∧
    decodeTableWord 16 0b0000_1011_0000_0000 = some .rxAbort ∧
    decodeTableWord 16 0b0000_1100_0000_0000 = some .reservedC ∧
    decodeTableWord 16 0b0000_1101_0000_0000 = some .reservedD ∧
    decodeTableWord 16 0b0000_1110_0000_0000 = some .reservedE ∧
    decodeTableWord 16 0b0000_1111_0000_0000 = some .sysReset := by decide

/-- The word 1010_11011110 in the seven receiver states (30_encoding.md R83). -/
theorem test_decode_sub_forms :
    let o : Issue := { cw := 0b1010_11011110#12, cmd := 0#16, n := 0#16, bytes := [] }
    decodeIn .sof o = .ok (.rxByteSof 0xDE#8) ∧ decodeIn .dlen o = .ok (.rxByteDlen 0xDE#8) ∧
    decodeIn .seq o = .ok (.rxByteSeq 0xDE#8) ∧ decodeIn .crc8 o = .ok (.rxByteCrc8 0xDE#8) ∧
    decodeIn .cmd o = .ok (.rxByteCmd 0xDE#8) ∧ decodeIn .data o = .ok (.rxByteData 0xDE#8) ∧
    decodeIn .crc16 o = .ok (.rxByteCrc16 0xDE#8) := by decide

/-- The encoder writes the same words. -/
theorem test_encode_words :
    (encode (.crc16Feed 0xC1#8)).cw = 0b0101_11000001#12 ∧ (encode (.rxByteData 0xA5#8)).cw = 0b1010_10100101#12 ∧
    (encode (.txBuild 0x1234#16 [0xDE#8])).cmd = 0x1234#16 ∧ (encode .sysReset).cw = 0b1111_00000000#12 := by decide

/-! ### The CRC unit (95_test_vectors.md sections 2.1, 2.4 and 2.5) -/

theorem test_crc8_iterator :
    feed8 0xFF#8 0x05#8 = 0x50#8 ∧ feed8 0x50#8 0x01#8 = 0x04#8 ∧ feed8 0xC4#8 0x00#8 = 0x83#8 ∧
    value8 0x83#8 = 0xC1#8 := by decide

theorem test_crc16_iterator :
    feed16 0xFFFF#16 0x05#8 = 0x541A#16 ∧ feed16 0x541A#16 0x01#8 = 0x91F9#16 ∧
    feed16 0x9973#16 0xA5#8 = 0x84DF#16 ∧ value16 0x84DF#16 = 0xFB21#16 := by decide

/-- The check string "123456789". -/
theorem test_crc_check_string :
    let s := [0x31#8, 0x32#8, 0x33#8, 0x34#8, 0x35#8, 0x36#8, 0x37#8, 0x38#8, 0x39#8]
    crc8 s = 0x0B#8 ∧ crc16 s = 0x6F91#16 := by decide +kernel

/-- INIT, FEED, VALUE and COMPUTE as operations on the machine. -/
theorem test_exec_crc8 :
    next? (exec (.crc8Feed 0x05#8) State.reset) =
      some { State.reset with c8Acc := 0x50#8, outputs := [.none] } ∧
    next? (exec .crc8Value { State.reset with c8Acc := 0x83#8 }) =
      some { State.reset with c8Acc := 0x83#8, outputs := [.crc8 0xC1#8] } ∧
    next? (exec .crc8Init { State.reset with c8Acc := 0x83#8 }) = some { State.reset with outputs := [.none] } ∧
    next? (exec (.crc8Compute []) { State.reset with c8Acc := 0x50#8 }) =
      some { State.reset with c8Acc := 0x50#8, outputs := [.crc8 0xFF#8] } := by decide

theorem test_exec_crc16 :
    next? (exec (.crc16Feed 0x05#8) State.reset) =
      some { State.reset with c16Acc := 0x541A#16, outputs := [.none] } ∧
    next? (exec .crc16Value { State.reset with c16Acc := 0x84DF#16 }) =
      some { State.reset with c16Acc := 0x84DF#16, outputs := [.crc16 0xFB21#16] } ∧
    next? (exec .crc16Init { State.reset with c16Acc := 0x84DF#16 }) = some { State.reset with outputs := [.none] } ∧
    next? (exec (.crc16Compute []) State.reset) = some { State.reset with outputs := [.crc16 0xFFFF#16] } := by decide

/-! ### The frame codec (95_test_vectors.md sections 3.1 and 3.2) -/

/-- V-TX-02 and V-TX-08: the frame and the wrap of `tx_seq`. -/
theorem test_tx_build :
    next? (exec (.txBuild 0x0001#16 [0xA5#8]) State.reset) =
      some { State.reset with txSeq := 0x01#8, outputs := [.frame fA] } ∧
    next? (exec (.txBuild 0x0010#16 [0x01#8, 0x02#8]) { State.reset with txSeq := 0xFF#8 }) =
      some { State.reset with txSeq := 0x00#8, outputs := [.frame
        [0x05#8, 0x02#8, 0x00#8, 0xFF#8, 0x10#8, 0x10#8, 0x00#8, 0x01#8, 0x02#8, 0x6E#8, 0x87#8]] } := by
  decide +kernel

/-- V-PA-02, V-PA-05, V-PA-08, V-PA-09, V-PA-10 and V-PA-11: each reason once. -/
theorem test_val_parse :
    parseReason 0x05#8 1#16 fA = .ok ∧ parseFrame 0x05#8 1#16 fA = some (0x0001#16, [0xA5#8]) ∧
    parseReason 0x05#8 1#16 (fA ++ [0x00#8]) = .len ∧ parseReason 0x05#8 1#16 (fA.set 0 0x06#8) = .sof ∧
    parseReason 0x05#8 1#16
      [0x05#8, 0x02#8, 0x00#8, 0x00#8, 0x25#8, 0x01#8, 0x00#8, 0xA5#8, 0x29#8, 0x95#8] = .dlen ∧
    parseReason 0x05#8 1#16 (fA.set 4 0xC0#8) = .crc8 ∧ parseReason 0x05#8 1#16 (fA.set 8 0xDE#8) = .crc16 := by
  decide +kernel

/-! ### The receiver, byte by byte (95_test_vectors.md V-RX-01) -/

theorem test_rx_sof :
    after (.rxByteSof 0x05#8) (withRx cfg4 inSof) = some (inDlen0, some (.event .none)) ∧
    after (.rxByteSof 0x06#8) (withRx cfg4 inSof) = some (inSof, some (.event .badSof)) := by decide

theorem test_rx_dlen :
    after (.rxByteDlen 0x01#8) (withRx cfg4 inDlen0) = some (inDlen1, some (.event .none)) ∧
    after (.rxByteDlen 0x00#8) (withRx cfg4 inDlen1) = some (inSeq, some (.event .none)) := by decide

/-- V-RX-09: the length 5 does not fit a buffer of 4, and the second byte has been fed. -/
theorem test_rx_dlen_overflow :
    after (.rxByteDlen 0x00#8) (withRx cfg4 (rxAt .dlen 1#16 5#16 (feed8 0x50#8 0x05#8) (feed16 0x541A#16 0x05#8))) =
      some (rxAt .sof 0#16 0#16 0x18#8 0x6C7E#16, some (.event .dlenOverflow)) := by decide +kernel

theorem test_rx_seq :
    after (.rxByteSeq 0x00#8) (withRx cfg4 inSeq) = some (inCrc8, some (.event .none)) ∧
    after (.rxByteSeq 0x00#8) (withRx cfgDup { inSeq with prevSeq := 0x00#8 }) =
      some ({ inCrc8 with prevSeq := 0x00#8, abandon := true }, some (.event .none)) ∧
    after (.rxByteSeq 0x00#8) (withRx cfgDup inSeq) =
      some ({ inCrc8 with prevSeq := 0x00#8 }, some (.event .none)) := by decide

/-- V-RX-01 byte 4 and V-RX-02 byte 4. -/
theorem test_rx_crc8 :
    after (.rxByteCrc8 0xC1#8) (withRx cfg4 inCrc8) = some (inCmd0, some (.event .none)) ∧
    after (.rxByteCrc8 0xC0#8) (withRx cfg4 inCrc8) =
      some (rxAt .sof 0#16 0#16 0x83#8 0x55EC#16, some (.event .crc8Mismatch)) := by decide

/-- V-RX-01 bytes 5 and 6, and the empty payload of V-RX-10 byte 6. -/
theorem test_rx_cmd :
    after (.rxByteCmd 0x01#8) (withRx cfg4 inCmd0) = some (inCmd1, some (.event .none)) ∧
    after (.rxByteCmd 0x00#8) (withRx cfg4 inCmd1) = some (inData, some (.event .none)) ∧
    (after (.rxByteCmd 0x00#8) (withRx cfg4 { inCmd1 with dlen := 0#16 })).map (fun p => p.1.state) = some .crc16 := by
  decide

theorem test_rx_data :
    after (.rxByteData 0xA5#8) (withRx cfg4 inData) = some (inCrc0, some (.event .none)) := by decide

theorem test_rx_crc16 :
    after (.rxByteCrc16 0x21#8) (withRx cfg4 inCrc0) = some (inCrc1, some (.event .none)) ∧
    after (.rxByteCrc16 0xFB#8) (withRx cfg4 inCrc1) =
      some (afterA, some (.event (.dispatch 0x0001#16 [0xA5#8]))) := by decide

/-- V-RX-12: the frame-end reasons in order. -/
theorem test_rx_frame_end_priority :
    let last := fun (b : Byte) (cfg : Config) (abandon : Bool) =>
      (after (.rxByte b) (withRx cfg { inCrc1 with abandon := abandon })).map (·.2)
    last 0xFA#8 cfgNoSub true = some (some (.event .crc16Mismatch)) ∧
    last 0xFB#8 cfgNoSub true = some (some (.event .duplicate)) ∧
    last 0xFB#8 cfgNoSub false = some (some (.event (.unknownCmd 0x0001#16 1#16))) := by decide

/-- V-RX-06: the result of RX.FEED, the events other than EV_NONE tagged with their indices. -/
theorem test_rx_feed_result :
    (match rxFeedResult ([0x00#8, 0xFF#8, 0x13#8, 0x37#8] ++ fA) (withRx cfg4 inSof) with
      | .next p => p.2
      | .fault _ | .refused _ => []) =
      [(0, .badSof), (1, .badSof), (2, .badSof), (3, .badSof), (13, .dispatch 0x0001#16 [0xA5#8])] := by
  decide +kernel

/-- V-RX-11: RX.ABORT in state CMD keeps the accumulators. -/
theorem test_rx_abort :
    after .rxAbort (withRx cfg4 inCmd1) = some (rxAt .sof 0#16 0#16 0x53#8 0x12AB#16, some .none) := by decide

/-- SYS.RESET restores the registers and does not write the buffer (70_reset_and_hazards.md R220). -/
theorem test_sys_reset :
    next? (exec .sysReset { withRx cfg4 inCrc1 with c8Acc := 0x50#8, txSeq := 0x07#8 }) =
      some { withRx cfg4 { Rx.reset cfg4 with buf := [(0, 0xA5#8)] } with outputs := [.none] } := by decide

/-- RX.BYTE runs the sub-form the state selects, through a step. -/
theorem test_step_rx_byte :
    next? (step ((withRx cfg4 inData).withFetchWord 16 0xAA5)) =
      some { withRx cfg4 inCrc0 with outputs := [.event .none] } := by decide

/-- The reserved codes (30_encoding.md R84). -/
theorem test_reserved :
    step (State.reset.withFetchWord 16 0xC00) = .refused (.reservedCode 0xC#4) ∧
    step (State.reset.withFetchWord 16 0xD12) = .refused (.reservedCode 0xD#4) ∧
    step (State.reset.withFetchWord 16 0xE00) = .refused (.reservedCode 0xE#4) := ⟨rfl, rfl, rfl⟩

/-! ### Witnesses: states and operands that meet the statements' hypotheses

`witness_<Name>` is about `Obligations.<Name>`. -/

/-- An operation with operation code `op`, every operand field set. -/
def opWith (op : OpCode) : Issue := { cw := op ++ 0x31#8, cmd := 0x0102#16, n := 4#16, bytes := [0x05#8] }

/-- TX.BUILD with the payload `p`. -/
def buildWith (p : List Byte) : Issue := { cw := 0x800#12, cmd := 1#16, n := 0#16, bytes := p }

/-- TX.BUILD with the shortest payload that is too long. -/
def tooLong : Issue := buildWith (List.replicate 65536 0#8)

theorem tooLong_length : 65535 < tooLong.bytes.length :=
  Nat.lt_of_lt_of_eq (by decide : 65535 < 65536) List.length_replicate.symm

theorem buildWith_refused {p : List Byte} (h : 65535 < p.length) :
    decode (buildWith p) = .error .payloadTooLong := by
  have ho : (buildWith p).op = 0x8#4 := (by decide : (0x800#12 : CmdWord).extractLsb' 8 4 = 0x8#4)
  simp only [decode, ho]
  exact if_neg (Nat.not_le.2 h)

theorem tooLong_refused : decode tooLong = .error .payloadTooLong := buildWith_refused tooLong_length

theorem witness_StepRunsDecodedOperation :
    ({ State.reset with issue := [opWith 0x1#4, opWith 0xF#4] } : State).issue = opWith 0x1#4 :: [opWith 0xF#4] ∧
    decode (opWith 0x1#4) = .ok (.crc8Feed 0x31#8) ∧ (Instr.crc8Feed 0x31#8).wf = true := by decide

theorem witness_StepIdlesOrRefuses :
    State.reset.issue = [] ∧
    ({ State.reset with issue := [tooLong] } : State).issue = tooLong :: [] ∧
    decode tooLong = .error .payloadTooLong := ⟨rfl, rfl, tooLong_refused⟩

theorem witness_DecodeInvertsEncode :
    (Instr.txBuild 1#16 (List.replicate 65535 0#8)).wf = true ∧
    (∀ (st : RxState) (b : Byte), Instr.txBuild 1#16 (List.replicate 65535 0#8) ≠ st.subForm b) ∧
    (Instr.rxByteCmd 0xFF#8).wf = true ∧ Instr.rxByteCmd 0xFF#8 = RxState.cmd.subForm 0xFF#8 :=
  ⟨test_wf_accepts_longest_payload _, fun st b => by cases st <;> exact Instr.noConfusion, rfl, rfl⟩

theorem witness_DecodedOperationReencodes :
    decode (opWith 0x8#4) = .ok (.txBuild 0x0102#16 [0x05#8]) ∧ decode (opWith 0xA#4) = .ok (.rxByte 0x31#8) ∧
    decode tooLong = .error .payloadTooLong ∧ tooLong.op = 0x8#4 ∧ 65535 < tooLong.bytes.length :=
  ⟨rfl, rfl, tooLong_refused, rfl, tooLong_length⟩

theorem witness_FormatsReadOnlyTheirOperands :
    ∀ op : OpCode, (opWith op).op = op ∧ (opWith op).bytes.length ≤ 65535 ∧
      ({ opWith op with cmd := 7#16, n := 9#16, bytes := [] } : Issue).op = (opWith op).op := by decide

theorem witness_ReservedCodesRefused :
    (∀ op : OpCode, ({ State.reset with issue := [opWith op] } : State).issue = opWith op :: [] ∧ (opWith op).op = op) ∧
    decode (opWith 0xC#4) = .ok .reservedC ∧ decode (opWith 0xD#4) = .ok .reservedD ∧
    decode (opWith 0xE#4) = .ok .reservedE ∧ (opWith 0x8#4).op ≠ 0x1#4 := by decide

/-- The hypotheses `o.op = …` of every encoding clause, one operation for each code. -/
theorem witness_opcode_hypotheses : ∀ op : OpCode, (opWith op).op = op := by decide

theorem witness_RxByteIsTheSelectedSubForm : (opWith 0xA#4).op = 0xA#4 ∧ (opWith 0xB#4).op ≠ 0xA#4 := by decide

theorem witness_CrcInitSeedsAccumulator : (opWith 0x0#4).op = 0x0#4 ∧ (opWith 0x4#4).op = 0x4#4 := by decide

theorem witness_CrcFeedUpdatesAccumulator : (opWith 0x1#4).op = 0x1#4 ∧ (opWith 0x5#4).op = 0x5#4 := by decide

theorem witness_CrcValueReflectsAccumulator : (opWith 0x2#4).op = 0x2#4 ∧ (opWith 0x6#4).op = 0x6#4 := by decide

theorem witness_CrcComputeIsOneShot : (opWith 0x3#4).op = 0x3#4 ∧ (opWith 0x7#4).op = 0x7#4 := by decide

theorem witness_ReflectReversesBitOrder : 0 < 8 ∧ 7 < 8 ∧ 15 < 16 := by decide

theorem witness_SysResetRestoresResetValues : (opWith 0xF#4).op = 0xF#4 := by decide

theorem witness_UnselectedSubFormRefused : RxState.data ≠ State.reset.rx.state := by decide

theorem witness_TxBuildReturnsTheFrame :
    (opWith 0x8#4).bytes.length ≤ 65535 ∧ ([] : List Byte).length ≤ 65535 ∧
    (List.replicate 65535 (0#8 : Byte)).length ≤ 65535 ∧ State.reset.txSeq = 0x00#8 ∧ State.reset.cfg.sof = 0x05#8 :=
  ⟨by decide, by decide, Nat.le_of_eq List.length_replicate, rfl, rfl⟩

theorem witness_TooLongPayloadRefused :
    tooLong.op = 0x8#4 ∧ 65535 < tooLong.bytes.length := ⟨rfl, tooLong_length⟩

theorem witness_BuiltFrameIsValid : ∃ t : State, exec (.txBuild 0x0001#16 [0xA5#8]) State.reset = .next t := ⟨_, rfl⟩

theorem witness_ParseInvertsBuild :
    ∃ t : State, exec (.txBuild 0x1234#16 []) { State.reset with txSeq := 0xFF#8 } = .next t := ⟨_, rfl⟩

theorem witness_ConsecutiveBuildsIncrementSeq :
    (∀ i ∈ [Instr.crc8Init, Instr.rxByte 0x05#8], i ≠ .sysReset ∧ ∀ c p, i ≠ .txBuild c p) ∧
    (∃ t : State, runProgram (Instr.txBuild 1#16 [] :: ([Instr.crc8Init, Instr.rxByte 0x05#8] ++ [Instr.txBuild 2#16 [0xA5#8]]))
      { State.reset with txSeq := 0xFF#8 } = .next t) ∧
    (∃ t : State, runProgram (Instr.sysReset :: ([Instr.crc8Init, Instr.rxByte 0x05#8] ++ [Instr.txBuild 1#16 []]))
      { State.reset with txSeq := 0xFF#8 } = .next t) ∧
    (∃ t : State, runProgram ([Instr.crc8Init, Instr.rxByte 0x05#8] ++ [Instr.txBuild 1#16 []])
      (State.resetWith cfgDup) = .next t) :=
  ⟨by simp, ⟨_, rfl⟩, ⟨_, rfl⟩, ⟨_, rfl⟩⟩

theorem witness_ParseAcceptsExactlyValidFrames :
    validFrame fA 1#16 State.reset.cfg.sof ∧ ¬ validFrame [] 0#16 State.reset.cfg.sof ∧
    ¬ validFrame (fA.set 9 0xFA#8) 1#16 State.reset.cfg.sof := by decide +kernel

/-- Each test failing as the first, on variants of fA (V-PA-05, V-PA-08, V-PA-09, V-PA-10, V-PA-12), and none. -/
theorem witness_ParseReasonIsFirstFailingTest :
    let dlenOk := fun bs => le16 (byteAt bs 1) (byteAt bs 2) = 1#16
    let crc8Ok := fun bs => byteAt bs 4 = crc8 (slice bs 0 4)
    let crc16Ok := fun bs => le16 (byteAt bs 8) (byteAt bs 9) = crc16 (slice bs 0 8)
    ¬ (fA ++ [0x00#8]).length = 10 ∧
    ((fA.set 0 0x06#8).length = 10 ∧ ¬ byteAt (fA.set 0 0x06#8) 0 = State.reset.cfg.sof) ∧
    (byteAt (fA.set 1 0x02#8) 0 = State.reset.cfg.sof ∧ ¬ dlenOk (fA.set 1 0x02#8)) ∧
    (dlenOk (fA.set 4 0xC0#8) ∧ ¬ crc8Ok (fA.set 4 0xC0#8)) ∧
    (dlenOk (fA.set 9 0xFA#8) ∧ crc8Ok (fA.set 9 0xFA#8) ∧ ¬ crc16Ok (fA.set 9 0xFA#8)) ∧
    (fA.length = 10 ∧ byteAt fA 0 = State.reset.cfg.sof ∧ dlenOk fA ∧ crc8Ok fA ∧ crc16Ok fA) := by decide +kernel

theorem witness_SingleByteTamperingRejected :
    validFrame fA 1#16 State.reset.cfg.sof ∧ 0 < fA.length ∧ byteAt fA 0 ≠ 0x06#8 ∧
    9 < fA.length ∧ byteAt fA 9 ≠ 0xFA#8 := by decide +kernel

theorem witness_RxByteSofHuntsForMarker :
    (withRx cfg4 inSof).rx.state = .sof ∧ 0x05#8 = (withRx cfg4 inSof).cfg.sof ∧
    0x06#8 ≠ (withRx cfg4 inSof).cfg.sof := by decide

/-- The length equal to the capacity, and one more. -/
theorem witness_RxByteDlenAssemblesLength :
    inDlen0.state = .dlen ∧ inDlen0.offset = 0#16 ∧ inDlen1.state = .dlen ∧ inDlen1.offset = 1#16 ∧
    le16 (loByte { inDlen1 with dlen := 4#16 }.dlen) 0x00#8 ≤ cfg4.maxDlen ∧
    cfg4.maxDlen < le16 (loByte { inDlen1 with dlen := 5#16 }.dlen) 0x00#8 := by decide

theorem witness_RxByteSeqRecordsSequence :
    inSeq.state = .seq ∧ cfg4.dupSuppress = false ∧ cfgDup.dupSuppress = true ∧ 0xFF#8 = inSeq.prevSeq ∧
    0x00#8 ≠ inSeq.prevSeq := by decide

theorem witness_RxByteCrc8ChecksHeader :
    inCrc8.state = .crc8 ∧ 0xC1#8 = reflect inCrc8.c8Acc ∧ 0xC0#8 ≠ reflect inCrc8.c8Acc := by decide

theorem witness_RxByteCmdAssemblesCommand :
    inCmd0.state = .cmd ∧ inCmd0.offset = 0#16 ∧ inCmd1.state = .cmd ∧ inCmd1.offset = 1#16 ∧
    inCmd1.dlen ≠ 0#16 ∧ { inCmd1 with dlen := 0#16 }.dlen = 0#16 := by decide

/-- The first and the last byte of a payload that fills the buffer. -/
theorem witness_RxByteDataStoresPayload :
    { inData with dlen := 4#16 }.state = .data ∧ { inData with dlen := 4#16 }.offset < 4#16 ∧
    4#16 ≤ cfg4.maxDlen ∧ { inData with dlen := 4#16, offset := 3#16 }.offset < 4#16 := by decide

/-- The last clause but one: an id of a set written by its members, and one of a set written by what it lacks. -/
theorem witness_RxByteCrc16EndsFrame_sets :
    cfgNoSub.subscribed.everyId = true ∧ 0x0001#16 ∈ cfgNoSub.subscribed.exceptions ∧
    { cfgNoSub with subscribed := { everyId := false, exceptions := [0x0001#16] } }.subscribed.everyId = false ∧
    subscribed { cfgNoSub with subscribed := { everyId := false, exceptions := [0x0001#16] } } 0x0001#16 = true := by
  decide

theorem witness_RxByteCrc16EndsFrame :
    inCrc0.state = .crc16 ∧ inCrc0.offset = 0#16 ∧ inCrc1.state = .crc16 ∧ inCrc1.offset = 1#16 ∧
    reflect inCrc1.c16Acc = le16 (loByte inCrc1.crc16Value) 0xFB#8 ∧
    reflect inCrc1.c16Acc ≠ le16 (loByte inCrc1.crc16Value) 0xFA#8 ∧
    { inCrc1 with abandon := true }.abandon = true ∧ inCrc1.abandon = false ∧
    subscribed cfgNoSub inCrc1.cmd = false ∧ subscribed cfg4 inCrc1.cmd = true ∧ inCrc1.dlen ≤ cfg4.maxDlen := by
  decide

/-- States outside 10_state.md R37. -/
theorem witness_AbsentBufferIndexFaults :
    { inData with offset := 4#16 }.state = .data ∧ cfg4.maxDlen ≤ { inData with offset := 4#16 }.offset ∧
    { inCrc1 with dlen := 5#16 }.state = .crc16 ∧ cfg4.maxDlen < { inCrc1 with dlen := 5#16 }.dlen ∧
    reflect inCrc1.c16Acc = le16 (loByte inCrc1.crc16Value) 0xFB#8 ∧ inCrc1.abandon = false ∧
    subscribed cfg4 inCrc1.cmd = true := by decide

theorem witness_RxAbortDiscardsFrame :
    (opWith 0xB#4).op = 0xB#4 ∧ afterA.state = .sof ∧ afterA.inRange cfg4 :=
  ⟨by decide, rfl, rfl, rfl, rfl, rfl, rfl⟩

/-- The trace's states are in the ranges of 10_state.md R37: for TransitionTableHolds. -/
theorem witness_inRange :
    inSof.inRange cfg4 ∧ inDlen0.inRange cfg4 ∧ inDlen1.inRange cfg4 ∧ inSeq.inRange cfg4 ∧ inCrc8.inRange cfg4 ∧
    inCmd0.inRange cfg4 ∧ inCmd1.inRange cfg4 ∧ { inCmd1 with dlen := 0#16 }.inRange cfg4 ∧ inData.inRange cfg4 ∧
    { inData with dlen := 2#16 }.inRange cfg4 ∧ inCrc0.inRange cfg4 ∧ inCrc1.inRange cfg4 :=
  ⟨⟨rfl, rfl, rfl, rfl, rfl⟩, .inl rfl, .inr rfl, ⟨rfl, by decide⟩, ⟨rfl, by decide⟩, ⟨.inl rfl, by decide⟩,
    ⟨.inr rfl, by decide⟩, ⟨.inr rfl, by decide⟩, ⟨by decide, by decide⟩, ⟨by decide, by decide⟩,
    ⟨.inl rfl, by decide⟩, ⟨.inr rfl, by decide⟩⟩

theorem witness_RxByteIsTotal :
    (withRx cfg4 inData).rx.inRange cfg4 ∧ (withRx cfg4 { inCrc1 with dlen := 4#16 }).rx.inRange cfg4 :=
  ⟨⟨by decide, by decide⟩, .inr rfl, by decide⟩

theorem witness_EveryOperationKeepsReceiverRanges :
    (withRx cfg4 inData).rx.inRange cfg4 ∧ goesOn (exec (.rxByte 0xA5#8) (withRx cfg4 inData)) = true :=
  ⟨⟨by decide, by decide⟩, by decide⟩

theorem witness_NoRunFaults :
    ({ withRx cfg4 inData with issue := [encode (.rxByte 0xA5#8), encode .rxAbort] } : State).rx.inRange cfg4 :=
  ⟨by decide, by decide⟩

/-- Every line of the table is taken by a byte that completes (with witness_inRange). -/
theorem witness_TransitionTableHolds :
    goesOn (exec (.rxByte 0x06#8) (withRx cfg4 inSof)) = true ∧
    goesOn (exec (.rxByte 0x05#8) (withRx cfg4 inSof)) = true ∧
    goesOn (exec (.rxByte 0x04#8) (withRx cfg4 inDlen0)) = true ∧
    le16 (loByte inDlen1.dlen) 0x00#8 ≤ cfg4.maxDlen ∧ goesOn (exec (.rxByte 0x00#8) (withRx cfg4 inDlen1)) = true ∧
    cfg4.maxDlen < le16 (loByte inDlen1.dlen) 0x01#8 ∧ goesOn (exec (.rxByte 0x01#8) (withRx cfg4 inDlen1)) = true ∧
    goesOn (exec (.rxByte 0x00#8) (withRx cfg4 inSeq)) = true ∧
    0xC1#8 = value8 inCrc8.c8Acc ∧ goesOn (exec (.rxByte 0xC1#8) (withRx cfg4 inCrc8)) = true ∧
    0xC0#8 ≠ value8 inCrc8.c8Acc ∧ goesOn (exec (.rxByte 0xC0#8) (withRx cfg4 inCrc8)) = true ∧
    goesOn (exec (.rxByte 0x01#8) (withRx cfg4 inCmd0)) = true ∧
    inCmd1.dlen ≠ 0#16 ∧ goesOn (exec (.rxByte 0x00#8) (withRx cfg4 inCmd1)) = true ∧
    goesOn (exec (.rxByte 0x00#8) (withRx cfg4 { inCmd1 with dlen := 0#16 })) = true ∧
    goesOn (exec (.rxByte 0xA5#8) (withRx cfg4 { inData with dlen := 2#16 })) = true ∧
    inData.offset.toNat + 1 = inData.dlen.toNat ∧ goesOn (exec (.rxByte 0xA5#8) (withRx cfg4 inData)) = true ∧
    goesOn (exec (.rxByte 0x21#8) (withRx cfg4 inCrc0)) = true ∧
    goesOn (exec (.rxByte 0xFB#8) (withRx cfg4 inCrc1)) = true ∧
    goesOn (exec .rxAbort (withRx cfg4 inData)) = true ∧ goesOn (exec .sysReset (withRx cfg4 inData)) = true := by
  decide

/-- For the last clauses of TransitionTableHolds: an operation that completes and changes `rx_state`, under
RX.BYTE's name and under its sub-form's. -/
theorem witness_TransitionTableHolds_changes :
    (after (.rxByte 0xA5#8) (withRx cfg4 inData)).map (fun p => p.1.state) = some .crc16 ∧
    (after (.rxByteData 0xA5#8) (withRx cfg4 inData)).map (fun p => p.1.state) = some .crc16 ∧
    (withRx cfg4 inData).rx.state ≠ .crc16 := by decide

theorem witness_RejectionClearsReceiver :
    exec (.rxByte 0xC0#8) (withRx cfg4 inCrc8) =
      .next { withRx cfg4 (rxAt .sof 0#16 0#16 0x83#8 0x55EC#16) with outputs := [] ++ [.event .crc8Mismatch] } ∧
    2#3 ≤ Event.crc8Mismatch.code ∧ Event.crc8Mismatch ≠ .dlenOverflow ∧
    (∃ r : Rx, exec (.rxByte 0x01#8) (withRx cfg4 inDlen1) =
      .next { withRx cfg4 r with outputs := [] ++ [.event .dlenOverflow] }) ∧
    2#3 ≤ Event.dlenOverflow.code ∧
    exec (.rxByte 0x06#8) (withRx cfg4 inSof) = .next { withRx cfg4 inSof with outputs := [] ++ [.event .badSof] } ∧
    Event.badSof.code = 1#3 :=
  ⟨of_next? (by decide), by decide, by decide, ⟨_, rfl⟩, by decide, of_next? (by decide), by decide⟩

theorem witness_DuplicateNeedsSuppression :
    { inCrc1 with abandon := true }.flagInRange cfgDup ∧
    exec (.rxByte 0xFB#8) (withRx cfgDup { inCrc1 with abandon := true }) =
      .next { withRx cfgDup afterA with outputs := [] ++ [.event .duplicate] } :=
  ⟨fun _ => ⟨rfl, .inr (.inr (.inr rfl))⟩, of_next? (by decide)⟩

/-- A byte stored, and a byte of another state. -/
theorem witness_OnlyDataBytesAreStored :
    goesOn (exec (.rxByteData 0xA5#8) (withRx cfg4 inData)) = true ∧
    goesOn (exec (.rxByteSeq 0x00#8) (withRx cfg4 inSeq)) = true := by decide

theorem witness_UnitsWriteOnlyTheirOwnState :
    goesOn (exec (.rxByteData 0xA5#8) (withRx cfg4 inData)) = true ∧
    goesOn (exec (.crc8Feed 0xA5#8) (withRx cfg4 inData)) = true ∧
    goesOn (exec .crc16Init (withRx cfg4 inData)) = true ∧ goesOn (exec (.txBuild 1#16 []) (withRx cfg4 inData)) = true ∧
    goesOn (exec .rxAbort (withRx cfg4 inData)) = true ∧ goesOn (exec .sysReset (withRx cfg4 inData)) = true := by
  decide +kernel

theorem witness_SequenceRegistersWrittenOnlyInSeq :
    after (.rxByte 0x02#8) (withRx cfgDup inSeq) =
      some ({ inSeq with
        state := .crc8, seq := 0x02#8, prevSeq := 0x02#8,
        c8Acc := feed8 0xC4#8 0x02#8, c16Acc := feed16 0x6A98#16 0x02#8 }, some (.event .none)) ∧
    0x02#8 ≠ inSeq.seq ∧ 0x02#8 ≠ inSeq.prevSeq ∧
    (after (.rxByte 0xFF#8) (withRx cfgDup inSeq)).map (fun p => p.1.abandon) = some true ∧ inSeq.abandon = false ∧
    (after .sysReset (withRx cfg4 { inSeq with seq := 3#8, prevSeq := 3#8 })).map (fun p => (p.1.seq, p.1.prevSeq)) =
      some (0x00#8, 0xFF#8) := by decide

/-- Two states that agree in one unit and in `CFG` and differ in the others; one operation of each agent. -/
theorem witness_UnitsDoNotReadEachOther :
    let s := withRx cfg4 inData
    let s' := { withRx cfg4 inSof with c8Acc := 1#8, txSeq := 9#8 }
    s.cfg = s'.cfg ∧
    agentOf .crc16Value = .crcPort ∧ goesOn (exec .crc16Value s) = true ∧ s.c16Acc = s'.c16Acc ∧
    s.c8Acc = { s' with c8Acc := 0xFF#8 }.c8Acc ∧
    agentOf (.txBuild 1#16 []) = .tx ∧ goesOn (exec (.txBuild 1#16 []) s) = true ∧
    s.txSeq = { s' with txSeq := 0x00#8 }.txSeq ∧
    agentOf (.rxByte 0xA5#8) = .rx ∧ goesOn (exec (.rxByte 0xA5#8) s) = true ∧ s.rx = { s' with rx := inData }.rx ∧
    agentOf (.valParse 0#16 []) = .any ∧ goesOn (exec (.valParse 0#16 []) s) = true := by decide +kernel

theorem witness_AgentsCommute :
    agentOf (.crc8Feed 1#8) = .crcPort ∧ agentOf (.rxByte 0xA5#8) = .rx ∧ agentOf (.txBuild 1#16 []) = .tx ∧
    goesOn (exec (.crc8Feed 1#8) (withRx cfg4 inData)) = true ∧
    goesOn (exec (.rxByte 0xA5#8) (withRx cfg4 inData)) = true ∧
    goesOn (exec (.txBuild 1#16 []) (withRx cfg4 inData)) = true := by decide +kernel

/-- A state in the middle of a frame meets the invariant. -/
theorem witness_inv : (withRx cfg4 inCrc1).Inv where
  inRange := ⟨.inr rfl, by decide⟩
  flag    := fun h => by cases h
  fields  := ⟨fun h => absurd h (by decide), by decide⟩
  buffer  := ⟨by decide, by decide, fun i (h : i < 1) => by
    obtain rfl : i = 0 := by omega
    rfl⟩

theorem witness_DispatchReadsOnlyWrittenBytes :
    (withRx cfg4 inCrc1).Inv ∧
    exec (.rxByte 0xFB#8) (withRx cfg4 inCrc1) =
      .next { withRx cfg4 afterA with outputs := [] ++ [.event (.dispatch 0x0001#16 [0xA5#8])] } :=
  ⟨witness_inv, of_next? (by decide)⟩

theorem witness_StepKeepsInvariant :
    ({ withRx cfg4 inCrc1 with issue := [encode (.rxByte 0xFB#8)] } : State).Inv ∧
    goesOn (step { withRx cfg4 inCrc1 with issue := [encode (.rxByte 0xFB#8)] }) = true :=
  ⟨⟨witness_inv.inRange, witness_inv.flag, witness_inv.fields, witness_inv.buffer⟩, by decide⟩

theorem witness_NoiseIsDiscarded :
    (withRx cfg4 inSof).rx.state = .sof ∧ ∀ b ∈ [0x00#8, 0xFF#8, 0x13#8], b ≠ (withRx cfg4 inSof).cfg.sof := by decide

/-- With fA, and with the shortest frame, V-TX-01. -/
theorem witness_ValidFrameAcceptedFromIdle :
    (withRx cfg4 inSof).rx.state = .sof ∧ validFrame fA 1#16 cfg4.sof ∧ 1#16 ≤ cfg4.maxDlen ∧
    validFrame [0x05#8, 0x00#8, 0x00#8, 0x00#8, 0x6A#8, 0x34#8, 0x12#8, 0x4A#8, 0x17#8] 0#16 cfg4.sof := by
  decide +kernel

theorem witness_AbortThenFrameAccepted :
    (withRx cfg4 inData).rx.inRange cfg4 ∧ validFrame fA 1#16 cfg4.sof ∧ 1#16 ≤ cfg4.maxDlen :=
  ⟨⟨by decide, by decide⟩, by decide +kernel⟩

theorem witness_LoopbackDispatches :
    (withRx cfg4 inSof).rx.state = .sof ∧ [0xDE#8, 0xAD#8, 0xBE#8, 0xEF#8].length ≤ cfg4.maxDlen.toNat ∧
    cfg4.dupSuppress = false ∧ subscribed cfg4 0x0102#16 = true := by decide

theorem witness_ReturnsToSofWithinBound :
    inDlen0.inRange cfg4 ∧ (List.replicate 12 (0x05#8 : Byte)).length = 8 + cfg4.maxDlen.toNat :=
  ⟨.inl rfl, by decide⟩

/-- The three cases of a false start, V-RX-09, V-RX-02 and V-RX-15, and the second and the third once more with
D = CFG.MAX_DLEN. -/
theorem witness_FalseStartCost :
    inSof.state = .sof ∧ byteAt [0x05#8, 0x05#8, 0x00#8] 0 = cfg4.sof ∧ cfg4.maxDlen < le16 0x05#8 0x00#8 ∧
    le16 0x01#8 0x00#8 ≤ cfg4.maxDlen ∧ 0xC0#8 ≠ crc8 (slice (fA.set 4 0xC0#8) 0 4) ∧
    le16 0x03#8 0x00#8 ≤ cfg4.maxDlen ∧
    (let bs := [0x05#8, 0x03#8, 0x00#8, 0x77#8, 0xF5#8] ++ fA
     byteAt bs 4 = crc8 (slice bs 0 4) ∧ 9 + (le16 0x03#8 0x00#8).toNat ≤ bs.length) ∧
    le16 0x04#8 0x00#8 = cfg4.maxDlen ∧
    (let h := [0x05#8, 0x04#8, 0x00#8, 0x77#8]
     0x00#8 ≠ crc8 h ∧
     let bs := h ++ [crc8 h] ++ fA
     byteAt bs 4 = crc8 (slice bs 0 4) ∧ 9 + cfg4.maxDlen.toNat ≤ bs.length) := by decide +kernel

end Sys2Proof.Tests
end

section
/-!
The decoder reads the operation code and, in format B alone, `arg` (30_encoding.md R80, R81); the
reserved codes and only they are read as the reserved operations, which every state refuses (R84).
-/

namespace Sys2Proof

/-! ## The two fields of a command word -/

/-- The upper field of a command word put together from its two fields (30_encoding.md R80). -/
@[simp] theorem extractLsb'_op_append (op : OpCode) (a : Byte) :
    (op ++ a : CmdWord).extractLsb' 8 4 = op :=
  BitVec.extractLsb'_append_eq_left

/-- Putting another `arg` under its operation code leaves an operation's code as it was. -/
@[simp] theorem op_with_arg (o : Issue) (a : Byte) :
    ({ o with cw := o.op ++ a } : Issue).op = o.op :=
  extractLsb'_op_append o.op a

/-! ## What the decoder reads -/

/-- What the decoder accepts stands in the row of the operation's own code (30_encoding.md R80). -/
theorem opCode_of_decode {o : Issue} {i : Instr} (h : decode o = .ok i) : i.opCode = o.op := by
  unfold decode at h
  split at h
  case h_9 hop =>
    split at h
    · cases h
      exact BitVec.eq_of_toNat_eq hop.symm
    · cases h
  case h_17 => cases h
  all_goals
    next hop =>
      cases h
      exact BitVec.eq_of_toNat_eq hop.symm

/-- Two operations that agree on the code and on the operands beside the command word decode alike, and
`arg` must agree only where the code is one of format B's (30_encoding.md R81). -/
theorem decode_congr {o o' : Issue} (hop : o.op = o'.op) (hcmd : o.cmd = o'.cmd) (hn : o.n = o'.n)
    (hbytes : o.bytes = o'.bytes)
    (harg : o'.op = 0x1#4 ∨ o'.op = 0x5#4 ∨ o'.op = 0xA#4 → o.arg = o'.arg) :
    decode o = decode o' := by
  unfold decode
  rw [hop, hcmd, hn, hbytes]
  split
  case h_2 h1 => rw [harg (.inl (BitVec.eq_of_toNat_eq h1))]
  case h_6 h5 => rw [harg (.inr (.inl (BitVec.eq_of_toNat_eq h5)))]
  case h_11 hA => rw [harg (.inr (.inr (BitVec.eq_of_toNat_eq hA)))]
  all_goals rfl

/-- Outside format B the decoder ignores `arg` (30_encoding.md R81, R84). -/
theorem decode_ignores_arg (o : Issue) (a : Byte) (h1 : o.op ≠ 0x1#4) (h5 : o.op ≠ 0x5#4)
    (hA : o.op ≠ 0xA#4) : decode { o with cw := o.op ++ a } = decode o :=
  decode_congr (op_with_arg o a) rfl rfl rfl fun hB => by
    obtain h | h | h := hB
    · exact absurd h h1
    · exact absurd h h5
    · exact absurd h hA

/-! ## The reserved codes -/

theorem decode_reservedC {o : Issue} (h : o.op = 0xC#4) : decode o = .ok .reservedC := by
  simp [decode, h]

theorem decode_reservedD {o : Issue} (h : o.op = 0xD#4) : decode o = .ok .reservedD := by
  simp [decode, h]

theorem decode_reservedE {o : Issue} (h : o.op = 0xE#4) : decode o = .ok .reservedE := by
  simp [decode, h]

/-- No word but one with a reserved code is read as a reserved operation (30_encoding.md R84). -/
theorem op_reserved_of_decode {o : Issue} {i : Instr} (h : decode o = .ok i)
    (hi : i = .reservedC ∨ i = .reservedD ∨ i = .reservedE) :
    o.op = 0xC#4 ∨ o.op = 0xD#4 ∨ o.op = 0xE#4 := by
  rw [← opCode_of_decode h]
  obtain rfl | rfl | rfl := hi
  · exact .inl rfl
  · exact .inr (.inl rfl)
  · exact .inr (.inr rfl)

end Sys2Proof

namespace Sys2Proof.Machine

@[simp] theorem exec_reservedC (s : State) : exec .reservedC s = .refused (.reservedCode 0xC#4) := rfl

@[simp] theorem exec_reservedD (s : State) : exec .reservedD s = .refused (.reservedCode 0xD#4) := rfl

@[simp] theorem exec_reservedE (s : State) : exec .reservedE s = .refused (.reservedCode 0xE#4) := rfl

/-- The step of a decoded operation is that operation, on the state without it. -/
theorem step_of_decode {s : State} {o : Issue} {rest : List Issue} {i : Instr}
    (hs : s.issue = o :: rest) (hd : decode o = .ok i) : step s = exec i { s with issue := rest } := by
  simp only [step, State.fetch_cons hs, hd]

/-- A command word with a reserved code is refused under its code (30_encoding.md R84). -/
theorem step_reserved {s : State} {o : Issue} {rest : List Issue} (hs : s.issue = o :: rest)
    (hop : o.op = 0xC#4 ∨ o.op = 0xD#4 ∨ o.op = 0xE#4) : step s = .refused (.reservedCode o.op) := by
  obtain h | h | h := hop
  · rw [step_of_decode hs (decode_reservedC h), exec_reservedC, h]
  · rw [step_of_decode hs (decode_reservedD h), exec_reservedD, h]
  · rw [step_of_decode hs (decode_reservedE h), exec_reservedE, h]

/-- Settles O7: the decoder reads a reserved code as its reserved operation, which no state executes; the
row of what is decoded gives the code back; and the decoder compares `arg` in format B alone. -/
theorem reservedCodesRefused : Obligations.ReservedCodesRefused := by
  unfold Obligations.ReservedCodesRefused
  refine ⟨?refused, ?meaning, ?onlyThey, ?argIgnored⟩
  case refused => exact fun s o rest hs hop => step_reserved hs hop
  case meaning => exact fun s => ⟨exec_reservedC s, exec_reservedD s, exec_reservedE s⟩
  case onlyThey => exact fun o i hd hi => op_reserved_of_decode hd hi
  case argIgnored => exact decode_ignores_arg

end Sys2Proof.Machine
end

section
/-!
The CRC unit (40_crc.md): how its eight codes are read and what its eight operations do to a state, the
bit reversal (R103), the per-byte update on numbers (R104), and programs of CRC operations, operation by
operation (R116; 30_encoding.md R88).
-/

namespace Sys2Proof

/-! ## The codes of the CRC unit (30_encoding.md R80, R81) -/

theorem decode_crc8Init {o : Issue} (h : o.op = 0x0#4) : decode o = .ok .crc8Init := by
  simp [decode, h]

theorem decode_crc8Feed {o : Issue} (h : o.op = 0x1#4) : decode o = .ok (.crc8Feed o.arg) := by
  simp [decode, h]

theorem decode_crc8Value {o : Issue} (h : o.op = 0x2#4) : decode o = .ok .crc8Value := by
  simp [decode, h]

theorem decode_crc8Compute {o : Issue} (h : o.op = 0x3#4) : decode o = .ok (.crc8Compute o.bytes) := by
  simp [decode, h]

theorem decode_crc16Init {o : Issue} (h : o.op = 0x4#4) : decode o = .ok .crc16Init := by
  simp [decode, h]

theorem decode_crc16Feed {o : Issue} (h : o.op = 0x5#4) : decode o = .ok (.crc16Feed o.arg) := by
  simp [decode, h]

theorem decode_crc16Value {o : Issue} (h : o.op = 0x6#4) : decode o = .ok .crc16Value := by
  simp [decode, h]

theorem decode_crc16Compute {o : Issue} (h : o.op = 0x7#4) : decode o = .ok (.crc16Compute o.bytes) := by
  simp [decode, h]

end Sys2Proof

namespace Sys2Proof.Machine

/-! ## The operations of the CRC unit, each with the whole next state -/

@[simp] theorem exec_crc8Init (s : State) :
    exec .crc8Init s = .next { s with c8Acc := init8, outputs := s.outputs ++ [.none] } := rfl

@[simp] theorem exec_crc8Feed (b : Byte) (s : State) :
    exec (.crc8Feed b) s = .next { s with c8Acc := feed8 s.c8Acc b, outputs := s.outputs ++ [.none] } := rfl

@[simp] theorem exec_crc8Value (s : State) :
    exec .crc8Value s = .next { s with outputs := s.outputs ++ [.crc8 (value8 s.c8Acc)] } := rfl

@[simp] theorem exec_crc8Compute (bs : List Byte) (s : State) :
    exec (.crc8Compute bs) s = .next { s with outputs := s.outputs ++ [.crc8 (crc8 bs)] } := rfl

@[simp] theorem exec_crc16Init (s : State) :
    exec .crc16Init s = .next { s with c16Acc := init16, outputs := s.outputs ++ [.none] } := rfl

@[simp] theorem exec_crc16Feed (b : Byte) (s : State) :
    exec (.crc16Feed b) s = .next { s with c16Acc := feed16 s.c16Acc b, outputs := s.outputs ++ [.none] } := rfl

@[simp] theorem exec_crc16Value (s : State) :
    exec .crc16Value s = .next { s with outputs := s.outputs ++ [.crc16 (value16 s.c16Acc)] } := rfl

@[simp] theorem exec_crc16Compute (bs : List Byte) (s : State) :
    exec (.crc16Compute bs) s = .next { s with outputs := s.outputs ++ [.crc16 (crc16 bs)] } := rfl

/-! ## Bit reversal and finalisation (40_crc.md R103, R105) -/

/-- R103 at every width: bit `i` of the reversal is bit `n - 1 - i`. -/
theorem getLsbD_reflect_of_lt {n i : Nat} (v : BitVec n) (hi : i < n) :
    (reflect v).getLsbD i = v.getLsbD (n - 1 - i) := by
  rw [getLsbD_reflect, BitVec.getMsbD, decide_eq_true hi, Bool.true_and]

/-- R103 at every width: the reversal undoes itself. -/
@[simp] theorem reflect_reflect {n : Nat} (v : BitVec n) : reflect (reflect v) = v :=
  BitVec.reverse_reverse_eq

/-- The final XOR of CRC-8 is with 0 (R100). -/
theorem value8_eq_reflect (a : Byte) : value8 a = reflect a := BitVec.xor_zero

/-- The final XOR of CRC-16 is with 0 (R101). -/
theorem value16_eq_reflect (a : Half) : value16 a = reflect a := BitVec.xor_zero

/-! ## The per-byte update on numbers (40_crc.md R104) -/

/-- One step of R104 on numbers, at width `w`: the top bit is tested, the value doubled, the polynomial
XORed if the bit was set, and the result cut to the width. -/
def natCrcShift (w poly a : Nat) : Nat :=
  if a / 2 ^ (w - 1) = 1 then ((a * 2) ^^^ poly) % 2 ^ w else (a * 2) % 2 ^ w

/-- The top bit is set exactly when the value divided by its weight is 1. -/
theorem msb_iff_toNat_div {w : Nat} (a : BitVec w) : a.msb = true ↔ a.toNat / 2 ^ (w - 1) = 1 := by
  have hlt : a.toNat < 2 * 2 ^ (w - 1) :=
    a.isLt.trans_le (by rw [← Nat.pow_succ']; exact Nat.pow_le_pow_right (by decide) (by omega))
  rw [BitVec.msb_eq_decide, decide_eq_true_iff, Nat.div_eq_iff (Nat.two_pow_pos _)]
  omega

theorem toNat_crcShift {w : Nat} (poly a : BitVec w) :
    (crcShift poly a).toNat = natCrcShift w poly.toNat a.toNat := by
  have hdouble : (a <<< 1).toNat = a.toNat * 2 % 2 ^ w := by simp [Nat.shiftLeft_eq]
  unfold crcShift natCrcShift
  simp only [msb_iff_toNat_div]
  split
  · rw [BitVec.toNat_xor, hdouble, Nat.xor_mod_two_pow, Nat.mod_eq_of_lt poly.isLt]
  · exact hdouble

theorem toNat_crcShifts {w : Nat} (poly : BitVec w) (k : Nat) (a : BitVec w) :
    (crcShifts poly k a).toNat = (natCrcShift w poly.toNat)^[k] a.toNat := by
  induction k generalizing a with
  | zero => rfl
  | succ k ih => rw [crcShifts, ih, toNat_crcShift, Function.iterate_succ_apply]

/-- Where the accumulator has room for a byte, a byte moved into its top loses no bit. -/
theorem toNat_byteAtTop {w : Nat} (hw : 8 ≤ w) (b : Byte) :
    (b.setWidth w <<< (w - 8)).toNat = b.toNat * 2 ^ (w - 8) := by
  have hfit : b.toNat * 2 ^ (w - 8) < 2 ^ w :=
    calc b.toNat * 2 ^ (w - 8) < 2 ^ 8 * 2 ^ (w - 8) := Nat.mul_lt_mul_of_pos_right b.isLt (Nat.two_pow_pos _)
      _ = 2 ^ w := by rw [← Nat.pow_add, Nat.add_sub_cancel' hw]
  rw [BitVec.toNat_shiftLeft, BitVec.toNat_setWidth_of_le hw, Nat.shiftLeft_eq, Nat.mod_eq_of_lt hfit]

/-- R104 on numbers, at every width that has room for a byte. -/
theorem toNat_crcFeed {w : Nat} (hw : 8 ≤ w) (poly acc : BitVec w) (b : Byte) :
    (crcFeed poly acc b).toNat =
      (natCrcShift w poly.toNat)^[8] (acc.toNat ^^^ ((reflect b).toNat * 2 ^ (w - 8))) := by
  rw [crcFeed, toNat_crcShifts, BitVec.toNat_xor, toNat_byteAtTop hw]

/-! ## Programs of CRC operations (40_crc.md R116; 30_encoding.md R88) -/

@[simp] theorem runProgram_nil (s : State) : runProgram [] s = .next s := rfl

/-- The first operation of a program runs, and the rest is a program on what it leaves. -/
theorem runProgram_cons {i : Instr} {ops : List Instr} {s t : State} (hd : decode (encode i) = .ok i)
    (he : exec i { s with issue := ops.map encode ++ s.issue } =
      .next { t with issue := ops.map encode ++ t.issue }) :
    runProgram (i :: ops) s = runProgram ops t := by
  have hstep : step { s with issue := encode i :: (ops.map encode ++ s.issue) } =
      .next { t with issue := ops.map encode ++ t.issue } := (step_of_decode rfl hd).trans he
  simp only [runProgram, List.map_cons, List.cons_append, List.length_cons, run_succ, hstep]

theorem runProgram_crc8Init (ops : List Instr) (s : State) :
    runProgram (.crc8Init :: ops) s =
      runProgram ops { s with c8Acc := init8, outputs := s.outputs ++ [.none] } :=
  runProgram_cons (decode_crc8Init (encode_op _)) (exec_crc8Init _)

theorem runProgram_crc8Feed (b : Byte) (ops : List Instr) (s : State) :
    runProgram (.crc8Feed b :: ops) s =
      runProgram ops { s with c8Acc := feed8 s.c8Acc b, outputs := s.outputs ++ [.none] } :=
  have hd : decode (encode (.crc8Feed b)) = .ok (.crc8Feed b) := by
    rw [decode_crc8Feed (encode_op _), encode_arg, Instr.argByte]
  runProgram_cons hd (exec_crc8Feed b _)

theorem runProgram_crc8Value (ops : List Instr) (s : State) :
    runProgram (.crc8Value :: ops) s =
      runProgram ops { s with outputs := s.outputs ++ [.crc8 (value8 s.c8Acc)] } :=
  runProgram_cons (decode_crc8Value (encode_op _)) (exec_crc8Value _)

/-- A FEED for each byte feeds the accumulator the sequence and returns as many empty results. -/
theorem runProgram_crc8Feeds (bs : List Byte) (ops : List Instr) (s : State) :
    runProgram (bs.map .crc8Feed ++ ops) s =
      runProgram ops { s with
        c8Acc := feedAll8 s.c8Acc bs, outputs := s.outputs ++ List.replicate bs.length .none } := by
  induction bs generalizing s with
  | nil => simp
  | cons b bs ih =>
    rw [List.map_cons, List.cons_append, runProgram_crc8Feed, ih]
    simp [List.replicate_succ]

theorem runProgram_crc16Init (ops : List Instr) (s : State) :
    runProgram (.crc16Init :: ops) s =
      runProgram ops { s with c16Acc := init16, outputs := s.outputs ++ [.none] } :=
  runProgram_cons (decode_crc16Init (encode_op _)) (exec_crc16Init _)

theorem runProgram_crc16Feed (b : Byte) (ops : List Instr) (s : State) :
    runProgram (.crc16Feed b :: ops) s =
      runProgram ops { s with c16Acc := feed16 s.c16Acc b, outputs := s.outputs ++ [.none] } :=
  have hd : decode (encode (.crc16Feed b)) = .ok (.crc16Feed b) := by
    rw [decode_crc16Feed (encode_op _), encode_arg, Instr.argByte]
  runProgram_cons hd (exec_crc16Feed b _)

theorem runProgram_crc16Value (ops : List Instr) (s : State) :
    runProgram (.crc16Value :: ops) s =
      runProgram ops { s with outputs := s.outputs ++ [.crc16 (value16 s.c16Acc)] } :=
  runProgram_cons (decode_crc16Value (encode_op _)) (exec_crc16Value _)

/-- The CRC-16 form of `runProgram_crc8Feeds`. -/
theorem runProgram_crc16Feeds (bs : List Byte) (ops : List Instr) (s : State) :
    runProgram (bs.map .crc16Feed ++ ops) s =
      runProgram ops { s with
        c16Acc := feedAll16 s.c16Acc bs, outputs := s.outputs ++ List.replicate bs.length .none } := by
  induction bs generalizing s with
  | nil => simp
  | cons b bs ih =>
    rw [List.map_cons, List.cons_append, runProgram_crc16Feed, ih]
    simp [List.replicate_succ]

/-! ## The obligations of 40_crc.md -/

/-- Settles O15: the update of every width on numbers, at widths 8 and 16. -/
theorem perByteUpdateIsEightSteps : Obligations.PerByteUpdateIsEightSteps := by
  unfold Obligations.PerByteUpdateIsEightSteps
  constructor
  · intro acc b
    rw [← Nat.mul_one (reflect b).toNat]
    exact toNat_crcFeed (le_refl 8) poly8 acc b
  · intro acc b
    exact toNat_crcFeed (by decide) poly16 acc b

/-- Settles O17: the program is run operation by operation; VALUE leaves the accumulator as it was, so
the second FEED goes on from what the first left. -/
theorem valueIsRepeatableAndFeedMayFollow : Obligations.ValueIsRepeatableAndFeedMayFollow := by
  unfold Obligations.ValueIsRepeatableAndFeedMayFollow
  intro xs ys s
  constructor
  · simp only [runProgram_crc8Init, runProgram_crc8Feeds, runProgram_crc8Value, runProgram_nil, crc8_eq,
      feedAll8_append]
    simp [init8, List.replicate_succ]
  · simp only [runProgram_crc16Init, runProgram_crc16Feeds, runProgram_crc16Value, runProgram_nil, crc16_eq,
      feedAll16_append]
    simp [init16, List.replicate_succ]

/-- Settles O10: INIT's two codes and what the two operations leave. -/
theorem crcInitSeedsAccumulator : Obligations.CrcInitSeedsAccumulator :=
  ⟨fun _ => decode_crc8Init, fun _ => decode_crc16Init, fun s => ⟨exec_crc8Init s, exec_crc16Init s⟩⟩

/-- Settles O11: FEED's two codes and what the two operations leave; the rules' examples are evaluated. -/
theorem crcFeedUpdatesAccumulator : Obligations.CrcFeedUpdatesAccumulator :=
  ⟨fun _ => decode_crc8Feed, fun _ => decode_crc16Feed,
    fun s b => ⟨exec_crc8Feed b s, exec_crc16Feed b s⟩, by decide, by decide⟩

/-- Settles O12: VALUE's two codes and results; the final XOR is with 0, so the result is the reflected
accumulator (R105). -/
theorem crcValueReflectsAccumulator : Obligations.CrcValueReflectsAccumulator :=
  ⟨fun _ => decode_crc8Value, fun _ => decode_crc16Value,
    fun s => ⟨exec_crc8Value s, exec_crc16Value s⟩, value8_eq_reflect, value16_eq_reflect, by decide⟩

/-- Settles O13: COMPUTE's two codes and results; the rules' examples are evaluated. -/
theorem crcComputeIsOneShot : Obligations.CrcComputeIsOneShot :=
  ⟨fun _ => decode_crc8Compute, fun _ => decode_crc16Compute,
    fun s bs => ⟨exec_crc8Compute bs s, exec_crc16Compute bs s⟩, by decide +kernel⟩

/-- Settles O14: R103 and the involution hold at every width; the examples are evaluated. -/
theorem reflectReversesBitOrder : Obligations.ReflectReversesBitOrder :=
  ⟨fun v _ => getLsbD_reflect_of_lt v, fun v _ => getLsbD_reflect_of_lt v, reflect_reflect, reflect_reflect,
    by decide⟩

end Sys2Proof.Machine
end

section
/-!
The frame codec (41_frame_codec.md): how TX.BUILD and VAL.PARSE are read and what they leave, the bytes
of a built frame by their place (R130), and the first failing test of VAL.PARSE (R136, R138).
-/

namespace Sys2Proof

/-! ## The codes of the frame codec (30_encoding.md R80, R81) -/

theorem decode_txBuild {o : Issue} (h : o.op = 0x8#4) (hlen : o.bytes.length ≤ maxPayload) :
    decode o = .ok (.txBuild o.cmd o.bytes) := by
  simp [decode, h, hlen]

theorem decode_valParse {o : Issue} (h : o.op = 0x9#4) : decode o = .ok (.valParse o.n o.bytes) := by
  simp [decode, h]

end Sys2Proof

namespace Sys2Proof.Machine

/-! ## The two operations, each with the whole next state -/

theorem exec_txBuild {p : List Byte} (hp : p.length ≤ maxPayload) (cmd : Half) (s : State) :
    exec (.txBuild cmd p) s = .next { s with
      txSeq := s.txSeq + 1#8, outputs := s.outputs ++ [.frame (buildFrame s.cfg.sof s.txSeq cmd p)] } :=
  if_pos hp

@[simp] theorem exec_valParse (n : Half) (bs : List Byte) (s : State) :
    exec (.valParse n bs) s = .next { s with outputs := s.outputs ++
      [.parsed (parseFrame s.cfg.sof n bs) (parseReason s.cfg.sof n bs)] } := rfl

/-! ## The bytes of a built frame (41_frame_codec.md R130) -/

/-- The bytes that the CRC16 covers are the body. -/
theorem take_buildFrame_body (sof seq : Byte) (cmd : Half) (p : List Byte) :
    (buildFrame sof seq cmd p).take (7 + p.length) = frameBody sof seq cmd p := by
  rw [buildFrame_eq, List.take_left' (by rw [frameBody_length, Nat.add_comm])]

/-- The bytes that the CRC8 covers are the header. -/
theorem take_buildFrame_header (sof seq : Byte) (cmd : Half) (p : List Byte) :
    (buildFrame sof seq cmd p).take 4 = frameHeader sof seq (BitVec.ofNat 16 p.length) := rfl

theorem getElem?_buildFrame_payload (sof seq : Byte) (cmd : Half) {p : List Byte} {k : Nat} (hk : k < p.length) :
    (buildFrame sof seq cmd p)[7 + k]? = p[k]? := by
  have hbody : 7 + k < (frameBody sof seq cmd p).length := by rw [frameBody_length]; omega
  rw [buildFrame_eq, List.getElem?_append_left hbody, frameBody_eq, Nat.add_comm]
  rfl

/-- Behind the body stand the two bytes of its CRC16. -/
theorem getElem?_buildFrame_crc16 (sof seq : Byte) (cmd : Half) (p : List Byte) (k : Nat) :
    (buildFrame sof seq cmd p)[7 + p.length + k]? =
      [loByte (crc16 (frameBody sof seq cmd p)), hiByte (crc16 (frameBody sof seq cmd p))][k]? := by
  have hlen : 7 + p.length + k = (frameBody sof seq cmd p).length + k := by
    rw [frameBody_length, Nat.add_comm 7]
  rw [buildFrame_eq, hlen, List.getElem?_append_right (Nat.le_add_right _ k), Nat.add_sub_cancel_left]

theorem getElem?_buildFrame_crc16Low (sof seq : Byte) (cmd : Half) (p : List Byte) :
    (buildFrame sof seq cmd p)[7 + p.length]? = some (loByte (crc16 (frameBody sof seq cmd p))) :=
  getElem?_buildFrame_crc16 sof seq cmd p 0

theorem getElem?_buildFrame_crc16High (sof seq : Byte) (cmd : Half) (p : List Byte) :
    (buildFrame sof seq cmd p)[8 + p.length]? = some (hiByte (crc16 (frameBody sof seq cmd p))) := by
  rw [Nat.add_right_comm 7 1]
  exact getElem?_buildFrame_crc16 sof seq cmd p 1

/-- The frame of rule R130's example (95_test_vectors.md V-TX-02). -/
theorem buildFrame_example :
    buildFrame 0x05#8 0x00#8 0x0001#16 [0xA5#8] =
      [0x05#8, 0x01#8, 0x00#8, 0x00#8, 0xC1#8, 0x01#8, 0x00#8, 0xA5#8, 0x21#8, 0xFB#8] := by
  decide +kernel

/-! ## The first failing test of VAL.PARSE (41_frame_codec.md R136, R138) -/

section
variable {sof : Byte} {n : Half} {bs : List Byte}

theorem parseReason_len (hlen : bs.length ≠ n.toNat + 9) : parseReason sof n bs = .len := if_pos hlen

theorem parseReason_sof (hlen : bs.length = n.toNat + 9) (hsof : byteAt bs 0 ≠ sof) :
    parseReason sof n bs = .sof := by
  rw [parseReason, if_neg (not_not_intro hlen), if_pos hsof]

theorem parseReason_dlen (hlen : bs.length = n.toNat + 9) (hsof : byteAt bs 0 = sof)
    (hdlen : le16 (byteAt bs 1) (byteAt bs 2) ≠ n) : parseReason sof n bs = .dlen := by
  rw [parseReason, if_neg (not_not_intro hlen), if_neg (not_not_intro hsof), if_pos hdlen]

theorem parseReason_crc8 (hlen : bs.length = n.toNat + 9) (hsof : byteAt bs 0 = sof)
    (hdlen : le16 (byteAt bs 1) (byteAt bs 2) = n) (hcrc8 : byteAt bs 4 ≠ crc8 (slice bs 0 4)) :
    parseReason sof n bs = .crc8 := by
  rw [parseReason, if_neg (not_not_intro hlen), if_neg (not_not_intro hsof),
    if_neg (not_not_intro hdlen), if_pos hcrc8]

theorem parseReason_crc16 (hlen : bs.length = n.toNat + 9) (hsof : byteAt bs 0 = sof)
    (hdlen : le16 (byteAt bs 1) (byteAt bs 2) = n) (hcrc8 : byteAt bs 4 = crc8 (slice bs 0 4))
    (hcrc16 : le16 (byteAt bs (7 + n.toNat)) (byteAt bs (8 + n.toNat)) ≠ crc16 (slice bs 0 (7 + n.toNat))) :
    parseReason sof n bs = .crc16 := by
  rw [parseReason, if_neg (not_not_intro hlen), if_neg (not_not_intro hsof),
    if_neg (not_not_intro hdlen), if_neg (not_not_intro hcrc8), if_pos hcrc16]

end

/-! ## What VAL.PARSE returns, by its reason -/

theorem exec_valParse_of_valid {s : State} {n : Half} {bs : List Byte} (h : validFrame bs n s.cfg.sof) :
    exec (.valParse n bs) s = .next { s with
      outputs := s.outputs ++ [.parsed (some (frameCmd bs, framePayload bs n.toNat)) .ok] } := by
  have hok : parseReason s.cfg.sof n bs = .ok := (parseReason_eq_ok s.cfg.sof n bs).mpr h
  rw [exec_valParse, parseFrame_of_ok hok, hok]

theorem exec_valParse_of_reason {s : State} {n : Half} {bs : List Byte} {reason : ParseReason}
    (h : parseReason s.cfg.sof n bs = reason) (hne : reason ≠ .ok) :
    exec (.valParse n bs) s = .next { s with outputs := s.outputs ++ [.parsed none reason] } := by
  subst h
  rw [exec_valParse, parseFrame_of_not_ok hne]

/-! ## The obligations of 41_frame_codec.md -/

/-- Settles O22: the frame is `buildFrame`'s, whose bytes are read off by their place; the CRC8 covers its
first four bytes and the CRC16 its first `7 + N`. -/
theorem txBuildReturnsTheFrame : Obligations.TxBuildReturnsTheFrame := by
  unfold Obligations.TxBuildReturnsTheFrame
  refine ⟨fun o => decode_txBuild, fun s cmd p hp => ?frame, by decide, fun s hseq hsof => ?specExample⟩
  case frame =>
    refine ⟨buildFrame s.cfg.sof s.txSeq cmd p, exec_txBuild hp cmd s, buildFrame_length _ _ _ _,
      rfl, rfl, rfl, rfl, ?crc8, rfl, rfl, fun _ => getElem?_buildFrame_payload _ _ _, ?low, ?high⟩
    case crc8 =>
      rw [take_buildFrame_header]
      rfl
    case low => rw [take_buildFrame_body, getElem?_buildFrame_crc16Low]
    case high => rw [take_buildFrame_body, getElem?_buildFrame_crc16High]
  case specExample =>
    rw [exec_txBuild (by decide), hseq, hsof, buildFrame_example]
    rfl

/-- Settles O26: the reason is 0 exactly on a valid frame, and the result is there exactly then. -/
theorem parseAcceptsExactlyValidFrames : Obligations.ParseAcceptsExactlyValidFrames := by
  unfold Obligations.ParseAcceptsExactlyValidFrames
  refine ⟨fun o => decode_valParse, fun s n bs => ⟨exec_valParse_of_valid, fun hinvalid => ?rejected⟩,
    fun s hsof => ?specExample⟩
  case rejected =>
    have hne : parseReason s.cfg.sof n bs ≠ .ok := mt (parseReason_eq_ok s.cfg.sof n bs).mp hinvalid
    exact ⟨_, hne, exec_valParse_of_reason rfl hne⟩
  case specExample =>
    rw [exec_valParse_of_valid (by rw [hsof]; decide +kernel)]
    rfl

/-- Settles O27: one case for each of the five tests, in the order of R136, and one for all of them. -/
theorem parseReasonIsFirstFailingTest : Obligations.ParseReasonIsFirstFailingTest := by
  unfold Obligations.ParseReasonIsFirstFailingTest
  refine ⟨by decide, fun s n bs => ⟨?len, ?sof, ?dlen, ?crc8, ?crc16, ?ok⟩⟩
  case len => exact fun hlen => exec_valParse_of_reason (parseReason_len hlen) (by decide)
  case sof => exact fun hlen hsof => exec_valParse_of_reason (parseReason_sof hlen hsof) (by decide)
  case dlen =>
    exact fun hlen hsof hdlen => exec_valParse_of_reason (parseReason_dlen hlen hsof hdlen) (by decide)
  case crc8 =>
    exact fun hlen hsof hdlen hcrc8 =>
      exec_valParse_of_reason (parseReason_crc8 hlen hsof hdlen hcrc8) (by decide)
  case crc16 =>
    exact fun hlen hsof hdlen hcrc8 hcrc16 =>
      exec_valParse_of_reason (parseReason_crc16 hlen hsof hdlen hcrc8 hcrc16) (by decide)
  case ok =>
    exact fun hlen hsof hdlen hcrc8 hcrc16 => exec_valParse_of_valid ⟨hlen, hsof, hdlen, hcrc8, hcrc16⟩

end Sys2Proof.Machine
end

section
/-!
The receiver (42_receiver.md): RX.BYTE and the sub-form that `rx_state` selects are one step of the
receiver (R153), what the sub-forms SOF, DLEN, SEQ, CRC8 and DATA answer, outcome by outcome (R154 to
R164), and RX.ABORT (R172).
-/

namespace Sys2Proof

theorem decode_rxAbort {o : Issue} (h : o.op = 0xB#4) : decode o = .ok .rxAbort := by
  simp [decode, h]

end Sys2Proof

namespace Sys2Proof.Machine

/-! ## RX.BYTE and its sub-forms are one step of the receiver (42_receiver.md R153) -/

@[simp] theorem exec_rxByte (b : Byte) (s : State) :
    exec (.rxByte b) s = s.finishRx (rxStep s.cfg s.rx b) := rfl

section
variable {cfg : Config} {r : Rx}

theorem rxStep_sof (b : Byte) (h : r.state = .sof) : rxStep cfg r b = rxSof cfg r b := by rw [rxStep, h]

theorem rxStep_dlen (b : Byte) (h : r.state = .dlen) : rxStep cfg r b = rxDlen cfg r b := by rw [rxStep, h]

theorem rxStep_seq (b : Byte) (h : r.state = .seq) : rxStep cfg r b = rxSeq cfg r b := by rw [rxStep, h]

theorem rxStep_crc8 (b : Byte) (h : r.state = .crc8) : rxStep cfg r b = rxCrc8 r b := by rw [rxStep, h]

theorem rxStep_cmd (b : Byte) (h : r.state = .cmd) : rxStep cfg r b = rxCmd r b := by rw [rxStep, h]

theorem rxStep_data (b : Byte) (h : r.state = .data) : rxStep cfg r b = rxData cfg r b := by rw [rxStep, h]

theorem rxStep_crc16 (b : Byte) (h : r.state = .crc16) : rxStep cfg r b = rxCrc16 cfg r b := by rw [rxStep, h]

end

/-- The sub-form that the receiver's state selects does what RX.BYTE does (30_encoding.md R83). -/
theorem exec_subForm {s : State} {st : RxState} (b : Byte) (h : s.rx.state = st) :
    exec (st.subForm b) s = s.finishRx (rxStep s.cfg s.rx b) := by
  cases st with
  | sof => rw [rxStep_sof b h]; exact State.finishSubForm_of_state _ h
  | dlen => rw [rxStep_dlen b h]; exact State.finishSubForm_of_state _ h
  | seq => rw [rxStep_seq b h]; exact State.finishSubForm_of_state _ h
  | crc8 => rw [rxStep_crc8 b h]; exact State.finishSubForm_of_state _ h
  | cmd => rw [rxStep_cmd b h]; exact State.finishSubForm_of_state _ h
  | data => rw [rxStep_data b h]; exact State.finishSubForm_of_state _ h
  | crc16 => rw [rxStep_crc16 b h]; exact State.finishSubForm_of_state _ h

/-- Under either name, a byte that the receiver answers replaces the receiver and appends the event. -/
theorem exec_of_rxStep {s : State} {st : RxState} {b : Byte} {i : Instr} {r : Rx} {e : Event}
    (hst : s.rx.state = st) (hi : i = st.subForm b ∨ i = .rxByte b)
    (hstep : rxStep s.cfg s.rx b = .ok (r, e)) :
    exec i s = .next { s with rx := r, outputs := s.outputs ++ [.event e] } := by
  have hfinish : exec i s = s.finishRx (rxStep s.cfg s.rx b) := by
    obtain rfl | rfl := hi
    · exact exec_subForm b hst
    · exact exec_rxByte b s
  rw [hfinish, hstep, State.finishRx_ok]

/-! ## What a sub-form answers, outcome by outcome -/

section
variable {cfg : Config} {r : Rx} {b : Byte}

/-! ### State SOF (R154) -/

theorem rxSof_marker (h : b = cfg.sof) :
    rxSof cfg r b = .ok ({ (r.clear.seed.feedBoth b) with state := .dlen }, .none) := if_pos h

theorem rxSof_noise (h : b ≠ cfg.sof) : rxSof cfg r b = .ok (r, .badSof) := if_neg h

/-! ### State DLEN (R156) -/

theorem rxDlen_low (ho : r.offset = 0#16) :
    rxDlen cfg r b = .ok ({ (r.feedBoth b) with dlen := zext16 b, offset := 1#16 }, .none) := if_pos ho

/-- The second byte completes the length, which the capacity then decides on. -/
theorem rxDlen_high (ho : r.offset ≠ 0#16) :
    rxDlen cfg r b =
      if cfg.maxDlen < le16 (loByte r.dlen) b then .ok ((r.feedBoth b).dropFrame, .dlenOverflow)
      else .ok ({ (r.feedBoth b) with dlen := le16 (loByte r.dlen) b, offset := 0#16, state := .seq }, .none) :=
  if_neg ho

theorem rxDlen_fits (ho : r.offset ≠ 0#16) (hfits : le16 (loByte r.dlen) b ≤ cfg.maxDlen) :
    rxDlen cfg r b =
      .ok ({ (r.feedBoth b) with dlen := le16 (loByte r.dlen) b, offset := 0#16, state := .seq }, .none) :=
  (rxDlen_high ho).trans (if_neg (BitVec.not_lt.mpr hfits))

theorem rxDlen_overflow (ho : r.offset ≠ 0#16) (hover : cfg.maxDlen < le16 (loByte r.dlen) b) :
    rxDlen cfg r b = .ok ((r.feedBoth b).dropFrame, .dlenOverflow) :=
  (rxDlen_high ho).trans (if_pos hover)

/-! ### State SEQ: the duplicate policy (R158) -/

theorem Rx.markDuplicate_off (h : cfg.dupSuppress = false) : r.markDuplicate cfg b = r := by
  simp [Rx.markDuplicate, h]

theorem Rx.markDuplicate_repeated (h : cfg.dupSuppress = true) (hb : b = r.prevSeq) :
    r.markDuplicate cfg b = { r with abandon := true } := by
  simp [Rx.markDuplicate, h, hb]

theorem Rx.markDuplicate_new (h : cfg.dupSuppress = true) (hb : b ≠ r.prevSeq) :
    r.markDuplicate cfg b = { r with prevSeq := b } := by
  simp [Rx.markDuplicate, h, hb]

/-- The answer in state SEQ, from what the duplicate policy makes of the receiver. -/
theorem rxSeq_of_markDuplicate {m : Rx} (h : { (r.feedBoth b) with seq := b }.markDuplicate cfg b = m) :
    rxSeq cfg r b = .ok ({ m with state := .crc8 }, .none) := by
  rw [rxSeq, h]

/-! ### State CRC8 (R160) -/

theorem rxCrc8_match (h : b = reflect r.c8Acc) :
    rxCrc8 r b = .ok ({ r with c16Acc := feed16 r.c16Acc b, state := .cmd }, .none) :=
  if_pos (h.trans (value8_eq_reflect _).symm)

theorem rxCrc8_mismatch (h : b ≠ reflect r.c8Acc) : rxCrc8 r b = .ok (r.dropFrame, .crc8Mismatch) :=
  if_neg (h.trans_eq (value8_eq_reflect _).symm)

/-! ### State DATA (R164) -/

/-- The offset does not wrap: it stands below a 16-bit length. -/
theorem toNat_offset_succ (hlt : r.offset < r.dlen) : (r.offset + 1#16).toNat = r.offset.toNat + 1 := by
  bv_omega

/-- The byte is the last one exactly when the count of bytes taken reaches the length. -/
theorem offset_succ_eq_dlen_iff (hlt : r.offset < r.dlen) :
    r.offset + 1#16 = r.dlen ↔ r.offset.toNat + 1 = r.dlen.toNat := by
  rw [← toNat_offset_succ hlt, BitVec.toNat_inj]

/-- In the ranges of 10_state.md R37 a payload byte is always stored. -/
theorem rxData_stores (hst : r.state = .data) (hlt : r.offset < r.dlen) (hfits : r.dlen ≤ cfg.maxDlen) :
    rxData cfg r b = .ok ({ (r.feedBoth b) with
      buf := r.buf.write r.offset.toNat b,
      offset := if r.offset.toNat + 1 = r.dlen.toNat then 0#16 else r.offset + 1#16,
      state := if r.offset.toNat + 1 = r.dlen.toNat then .crc16 else .data }, .none) := by
  have hexists : r.offset < cfg.maxDlen := by bv_omega
  rw [rxData, if_pos hexists]
  by_cases hlast : r.offset.toNat + 1 = r.dlen.toNat
  · simp [hlast, (offset_succ_eq_dlen_iff hlt).mpr hlast]
  · simp [hlast, mt (offset_succ_eq_dlen_iff hlt).mp hlast, hst]

end

/-! ## RX.ABORT (R172) -/

@[simp] theorem exec_rxAbort (s : State) :
    exec .rxAbort s = .next { s with rx := s.rx.dropFrame, outputs := s.outputs ++ [.none] } := rfl

/-- A receiver that hunts for SOF has no frame to drop (10_state.md R37). -/
theorem Rx.dropFrame_of_sof {cfg : Config} {r : Rx} (hst : r.state = .sof) (hr : r.inRange cfg) :
    r.dropFrame = r := by
  cases r
  cases hst
  obtain ⟨rfl, rfl, rfl, rfl, rfl⟩ := hr
  rfl

/-! ## The obligations of 42_receiver.md -/

/-- Settles O35: the index lies in the buffer, so the byte is stored there, and a write reads back at its
own index alone. -/
theorem rxByteDataStoresPayload : Obligations.RxByteDataStoresPayload := by
  unfold Obligations.RxByteDataStoresPayload
  intro s b i hst hi hlt hfits
  refine ⟨s.rx.buf.write s.rx.offset.toNat b, ?next, ?stored, ?others, fun _ => toNat_offset_succ hlt⟩
  case next => exact exec_of_rxStep hst hi ((rxStep_data b hst).trans (rxData_stores hst hlt hfits))
  case stored => exact Memory.read_write_same _ _ _
  case others => exact fun a ha => Memory.read_write_other _ b ha

/-- Settles O30: the marker or another byte; the rule's example is evaluated. -/
theorem rxByteSofHuntsForMarker : Obligations.RxByteSofHuntsForMarker := by
  unfold Obligations.RxByteSofHuntsForMarker
  refine ⟨fun s b i hst hi => ⟨?marker, ?noise⟩, by decide⟩
  case marker => exact fun hb => exec_of_rxStep hst hi ((rxStep_sof b hst).trans (rxSof_marker hb))
  case noise => exact fun hb => exec_of_rxStep hst hi ((rxStep_sof b hst).trans (rxSof_noise hb))

/-- Settles O31: the first byte, or the second with a length that fits or does not. -/
theorem rxByteDlenAssemblesLength : Obligations.RxByteDlenAssemblesLength := by
  unfold Obligations.RxByteDlenAssemblesLength
  intro s b i hst hi
  have hstep := rxStep_dlen (cfg := s.cfg) b hst
  have hsecond (ho : s.rx.offset = 1#16) : s.rx.offset ≠ 0#16 := ho.trans_ne (by decide)
  refine ⟨?low, ?fits, ?overflow⟩
  case low => exact fun ho => exec_of_rxStep hst hi (hstep.trans (rxDlen_low ho))
  case fits =>
    exact fun ho hfits => exec_of_rxStep hst hi (hstep.trans (rxDlen_fits (hsecond ho) hfits))
  case overflow =>
    exact fun ho hover => exec_of_rxStep hst hi (hstep.trans (rxDlen_overflow (hsecond ho) hover))

/-- Settles O32: one case for each outcome of the duplicate policy. -/
theorem rxByteSeqRecordsSequence : Obligations.RxByteSeqRecordsSequence := by
  unfold Obligations.RxByteSeqRecordsSequence
  intro s b i hst hi
  have hstep := rxStep_seq (cfg := s.cfg) b hst
  refine ⟨?off, ?repeated, ?new⟩
  case off =>
    exact fun hdup => exec_of_rxStep hst hi
      (hstep.trans (rxSeq_of_markDuplicate (Rx.markDuplicate_off hdup)))
  case repeated =>
    exact fun hdup hb => exec_of_rxStep hst hi
      (hstep.trans (rxSeq_of_markDuplicate (Rx.markDuplicate_repeated hdup hb)))
  case new =>
    exact fun hdup hb => exec_of_rxStep hst hi
      (hstep.trans (rxSeq_of_markDuplicate (Rx.markDuplicate_new hdup hb)))

/-- Settles O33: the header check passes or fails; the rule's example is evaluated. -/
theorem rxByteCrc8ChecksHeader : Obligations.RxByteCrc8ChecksHeader := by
  unfold Obligations.RxByteCrc8ChecksHeader
  refine ⟨fun s b i hst hi => ⟨?passes, ?fails⟩, by decide⟩
  case passes => exact fun hb => exec_of_rxStep hst hi ((rxStep_crc8 b hst).trans (rxCrc8_match hb))
  case fails => exact fun hb => exec_of_rxStep hst hi ((rxStep_crc8 b hst).trans (rxCrc8_mismatch hb))

/-- Settles O38: the code, the drop of the frame, and that a receiver in state SOF has none to drop. -/
theorem rxAbortDiscardsFrame : Obligations.RxAbortDiscardsFrame := by
  unfold Obligations.RxAbortDiscardsFrame
  refine ⟨fun o => decode_rxAbort, exec_rxAbort, fun s hst hr => ?idle⟩
  case idle => rw [exec_rxAbort, Rx.dropFrame_of_sof hst hr]

end Sys2Proof.Machine
end

section
/-!
SYS.RESET (70_reset_and_hazards.md R220): how its code is read, what it makes of the receiver, and the
whole next state.
-/

namespace Sys2Proof

theorem decode_sysReset {o : Issue} (h : o.op = 0xF#4) : decode o = .ok .sysReset := by
  simp [decode, h]

end Sys2Proof

namespace Sys2Proof.Machine

@[simp] theorem exec_sysReset (s : State) :
    exec .sysReset s = .next { s with
      c8Acc := init8, c16Acc := init16, txSeq := 0x00#8, rx := s.rx.resetRegs s.cfg,
      outputs := s.outputs ++ [.none] } := rfl

/-- The receiver after SYS.RESET, register by register in the order of R220: of the receiver before it,
only `rx_buf` is left. -/
theorem Rx.resetRegs_eq (cfg : Config) (r : Rx) :
    r.resetRegs cfg =
      { state := .sof, offset := 0#16, dlen := 0#16, seq := 0x00#8, prevSeq := cfg.prevSeqReset,
        abandon := false, cmd := 0#16, crc16Value := 0#16, c8Acc := init8, c16Acc := init16,
        buf := r.buf } := rfl

/-- Settles O39: the code, and the next state with the receiver written out; the accumulators' seeds are
the reset values of R220. -/
theorem sysResetRestoresResetValues : Obligations.SysResetRestoresResetValues := by
  unfold Obligations.SysResetRestoresResetValues
  refine ⟨fun o => decode_sysReset, fun s => ?registers⟩
  case registers =>
    have hseed8 : init8 = 0xFF#8 := rfl
    have hseed16 : init16 = 0xFFFF#16 := rfl
    rw [exec_sysReset, Rx.resetRegs_eq, hseed8, hseed16]

end Sys2Proof.Machine
end

section
/-!
The codec of the command word whole (30_encoding.md R80 to R84): decode and encode undo each other on
every well-formed operation, what the decoder reads and what it rejects, the selection of RX.BYTE's
sub-form by `rx_state` (R83), and what one step does (20_memory.md section 5).
-/

namespace Sys2Proof

/-! ## The decoder, code by code -/

theorem decode_rxByte {o : Issue} (h : o.op = 0xA#4) : decode o = .ok (.rxByte o.arg) := by
  simp [decode, h]

/-- A payload the interface cannot express is rejected (41_frame_codec.md R132; log 11). -/
theorem decode_payloadTooLong {o : Issue} (h : o.op = 0x8#4) (hlen : 65535 < o.bytes.length) :
    decode o = .error .payloadTooLong := by
  have hnot : ¬ o.bytes.length ≤ maxPayload := by rw [maxPayload]; omega
  simp [decode, h, hnot]

/-- The only rejection: TX.BUILD's code with a payload that the interface cannot express. -/
theorem decode_error {o : Issue} {e : DecodeError} (h : decode o = .error e) :
    e = .payloadTooLong ∧ o.op = 0x8#4 ∧ 65535 < o.bytes.length := by
  unfold decode at h
  split at h
  case h_9 hop =>
    split at h
    · cases h
    · next hlen =>
        cases h
        exact ⟨rfl, BitVec.eq_of_toNat_eq hop, Nat.not_le.mp hlen⟩
  case h_17 hother =>
    exfalso
    have hop := o.op.isLt
    interval_cases o.op.toNat <;> simp_all
  all_goals cases h

/-- What the decoder accepts is well formed and is no sub-form (30_encoding.md R81, R83). -/
theorem wf_and_command_of_decode {o : Issue} {i : Instr} (h : decode o = .ok i) :
    i.wf = true ∧ i.command = i := by
  unfold decode at h
  split at h
  case h_9 =>
    split at h
    · next hlen =>
        cases h
        exact ⟨decide_eq_true hlen, rfl⟩
    · cases h
  case h_17 => cases h
  all_goals
    cases h
    exact ⟨rfl, rfl⟩

/-! ## Decode after encode -/

/-- The decoder gives an encoded operation back, a sub-form as the RX.BYTE it is a form of
(30_encoding.md R83): one row of the operation table after the other. -/
theorem decode_encode {i : Instr} (h : i.wf = true) : decode (encode i) = .ok i.command := by
  have hop := Machine.encode_op i
  have harg := Machine.encode_arg i
  cases i with
  | crc8Init => exact decode_crc8Init hop
  | crc8Feed b => rw [decode_crc8Feed hop, harg]; rfl
  | crc8Value => exact decode_crc8Value hop
  | crc8Compute bs => exact decode_crc8Compute hop
  | crc16Init => exact decode_crc16Init hop
  | crc16Feed b => rw [decode_crc16Feed hop, harg]; rfl
  | crc16Value => exact decode_crc16Value hop
  | crc16Compute bs => exact decode_crc16Compute hop
  | txBuild cmd p => exact decode_txBuild hop (of_decide_eq_true h)
  | valParse n bs => exact decode_valParse hop
  | rxByte b | rxByteSof b | rxByteDlen b | rxByteSeq b | rxByteCrc8 b | rxByteCmd b | rxByteData b
  | rxByteCrc16 b => rw [decode_rxByte hop, harg]; rfl
  | rxAbort => exact decode_rxAbort hop
  | reservedC => exact decode_reservedC hop
  | reservedD => exact decode_reservedD hop
  | reservedE => exact decode_reservedE hop
  | sysReset => exact decode_sysReset hop

/-- An operation that is not well formed has no command word: what the encoder writes is rejected. -/
theorem decode_encode_of_not_wf {i : Instr} (h : i.wf ≠ true) : decode (encode i) = .error .payloadTooLong := by
  cases i with
  | txBuild cmd p =>
    have hlen : ¬ p.length ≤ maxPayload := fun hle => h (decide_eq_true hle)
    exact decode_payloadTooLong (Machine.encode_op _) (Nat.not_le.mp hlen)
  | _ => exact absurd rfl h

/-! ## The sub-forms of RX.BYTE -/

theorem subForm_command (st : RxState) (b : Byte) : (st.subForm b).command = .rxByte b := by
  cases st <;> rfl

/-- An operation that is no sub-form is its own command. -/
theorem command_of_ne_subForm {i : Instr} (h : ∀ (st : RxState) (b : Byte), i ≠ st.subForm b) : i.command = i := by
  cases i with
  | rxByteSof b => exact absurd rfl (h .sof b)
  | rxByteDlen b => exact absurd rfl (h .dlen b)
  | rxByteSeq b => exact absurd rfl (h .seq b)
  | rxByteCrc8 b => exact absurd rfl (h .crc8 b)
  | rxByteCmd b => exact absurd rfl (h .cmd b)
  | rxByteData b => exact absurd rfl (h .data b)
  | rxByteCrc16 b => exact absurd rfl (h .crc16 b)
  | _ => rfl

theorem decodeIn_of_decode {o : Issue} {i : Instr} (st : RxState) (h : decode o = .ok i) :
    decodeIn st o = .ok (i.select st) := by
  rw [decodeIn, h]
  rfl

/-- Only RX.BYTE is decoded by the receiver's state. -/
theorem select_of_opCode_ne (st : RxState) {i : Instr} (h : i.opCode ≠ 0xA#4) : i.select st = i := by
  cases i with
  | rxByte b => exact absurd rfl h
  | _ => rfl

/-- With another code the receiver's state does not matter to the decoder (30_encoding.md R83). -/
theorem decodeIn_of_op_ne (st : RxState) {o : Issue} (h : o.op ≠ 0xA#4) : decodeIn st o = decode o := by
  cases hd : decode o with
  | error e => rw [decodeIn, hd]; rfl
  | ok i => rw [decodeIn_of_decode st hd, select_of_opCode_ne st (by rwa [opCode_of_decode hd])]

/-! ## The obligations of 30_encoding.md sections 3 and 4 -/

/-- Settles O4: row by row for the plain decoder; a sub-form's word is RX.BYTE's, and the state selects
the sub-form. -/
theorem decodeInvertsEncode : Obligations.DecodeInvertsEncode := by
  unfold Obligations.DecodeInvertsEncode
  intro i hwf
  refine ⟨decode_encode hwf, fun hplain => ?plain, fun st b hsub => ?subForm⟩
  case plain => rw [decode_encode hwf, command_of_ne_subForm hplain]
  case subForm =>
    subst hsub
    rw [decodeIn_of_decode st (decode_encode hwf), subForm_command]
    rfl

/-- Settles O5: what is accepted is the row of its code and well formed, so it is encoded and decoded
back; the one rejecting branch of the decoder is the length test of TX.BUILD. -/
theorem decodedOperationReencodes : Obligations.DecodedOperationReencodes := by
  unfold Obligations.DecodedOperationReencodes
  refine ⟨fun o i hd => ?accepted, fun o e => ⟨decode_error, ?rejected⟩⟩
  case accepted =>
    obtain ⟨hwf, hcommand⟩ := wf_and_command_of_decode hd
    refine ⟨hwf, hcommand, (Machine.encode_op i).trans (opCode_of_decode hd), ?_⟩
    rw [decode_encode hwf, hcommand]
  case rejected =>
    rintro ⟨rfl, hop, hlen⟩
    exact decode_payloadTooLong hop hlen

/-- Settles O6: each code's reading, written for both operations, compares the operands it names. -/
theorem formatsReadOnlyTheirOperands : Obligations.FormatsReadOnlyTheirOperands := by
  unfold Obligations.FormatsReadOnlyTheirOperands
  intro o o' hop
  refine ⟨?formatZ, ?formatB, ?formatS, ?formatT, ?formatP⟩
  case formatZ =>
    rintro (h | h | h | h | h | h) <;> have h' := hop ▸ h
    · rw [decode_crc8Init h, decode_crc8Init h']
    · rw [decode_crc8Value h, decode_crc8Value h']
    · rw [decode_crc16Init h, decode_crc16Init h']
    · rw [decode_crc16Value h, decode_crc16Value h']
    · rw [decode_rxAbort h, decode_rxAbort h']
    · rw [decode_sysReset h, decode_sysReset h']
  case formatB =>
    rintro (h | h | h) <;> have h' := hop ▸ h
    · simp [decode_crc8Feed h, decode_crc8Feed h']
    · simp [decode_crc16Feed h, decode_crc16Feed h']
    · simp [decode_rxByte h, decode_rxByte h']
  case formatS =>
    rintro (h | h) <;> have h' := hop ▸ h
    · simp [decode_crc8Compute h, decode_crc8Compute h']
    · simp [decode_crc16Compute h, decode_crc16Compute h']
  case formatT =>
    intro h hlen
    have h' := hop ▸ h
    rw [decode_txBuild h hlen]
    by_cases hlen' : o'.bytes.length ≤ 65535
    · simp [decode_txBuild h' hlen']
    · have hbytes : o.bytes ≠ o'.bytes := fun heq => hlen' (heq ▸ hlen)
      simp [decode_payloadTooLong h' (Nat.not_le.mp hlen'), hbytes]
  case formatP =>
    intro h
    have h' := hop ▸ h
    simp [decode_valParse h, decode_valParse h']

/-- Settles O3: the words are evaluated. -/
theorem sampleWordsDecode : Obligations.SampleWordsDecode := by
  unfold Obligations.SampleWordsDecode
  exact ⟨rfl, rfl, rfl, rfl, rfl, rfl, rfl, rfl, rfl, rfl⟩

end Sys2Proof

namespace Sys2Proof.Machine

/-! ## The step -/

/-- With no operation waiting nothing happens (log 4). -/
theorem step_idle {s : State} (h : s.issue = []) : step s = .next s := by
  simp only [step, State.fetch_nil h]

theorem step_undecodable {s : State} {o : Issue} {rest : List Issue} {e : DecodeError}
    (hs : s.issue = o :: rest) (hd : decode o = .error e) : step s = .refused (.undecodable e) := by
  simp only [step, State.fetch_cons hs, hd]

/-- Settles O1. -/
theorem stepRunsDecodedOperation : Obligations.StepRunsDecodedOperation :=
  fun _ _ _ _ hs hd _ => step_of_decode hs hd

/-- Settles O2: the two branches of the step that run no operation. -/
theorem stepIdlesOrRefuses : Obligations.StepIdlesOrRefuses :=
  ⟨fun _ => step_idle, fun _ _ _ _ => step_undecodable⟩

/-! ## Sub-forms and long payloads in the meaning -/

/-- A sub-form that the receiver's state does not select is refused (log 9). -/
theorem State.finishSubForm_of_state_ne {s : State} {st : RxState} (res : RxResult) (h : st ≠ s.rx.state) :
    s.finishSubForm st res = .refused (.subFormNotSelected s.rx.state) :=
  if_neg h.symm

theorem exec_subForm_of_ne {s : State} {st : RxState} (b : Byte) (h : st ≠ s.rx.state) :
    exec (st.subForm b) s = .refused (.subFormNotSelected s.rx.state) := by
  cases st <;> exact State.finishSubForm_of_state_ne _ h

/-- The meaning refuses what the decoder rejects (log 11). -/
theorem exec_txBuild_tooLong {p : List Byte} (hp : maxPayload < p.length) (cmd : Half) (s : State) :
    exec (.txBuild cmd p) s = .refused .payloadTooLong :=
  if_neg (Nat.not_le.mpr hp)

/-- Settles O8: in the meaning both names are the step of the receiver, in the decoder the selection
follows the reading of code 0xA. -/
theorem rxByteIsTheSelectedSubForm : Obligations.RxByteIsTheSelectedSubForm := by
  unfold Obligations.RxByteIsTheSelectedSubForm
  refine ⟨fun s b => (exec_subForm b rfl).symm, fun st o hop => decodeIn_of_decode st (decode_rxByte hop),
    fun st o => decodeIn_of_op_ne st, fun b => ?names, ?codes⟩
  case names => exact ⟨rfl, rfl, rfl, rfl, rfl, rfl, rfl⟩
  case codes => exact ⟨rfl, rfl, rfl, rfl, rfl, rfl, rfl⟩

/-- Settles O9. -/
theorem unselectedSubFormRefused : Obligations.UnselectedSubFormRefused :=
  fun _ _ b hst => exec_subForm_of_ne b hst

/-- Settles O23: the length test of the meaning and that of the decoder. -/
theorem tooLongPayloadRefused : Obligations.TooLongPayloadRefused :=
  ⟨fun s cmd _ hp => exec_txBuild_tooLong hp cmd s, fun _ => decode_payloadTooLong⟩

end Sys2Proof.Machine
end

section
/-!
What an operation can do, said once (10_state.md section 2, the table of R22): the inversion of `exec`,
and from it which unit an operation writes and which it reads, and that operations of different agents
commute (20_memory.md section 5).
-/

namespace Sys2Proof.Machine

/-! ## The inversion of `exec` -/

/-- What an operation that completes in state `s` was, and what it left: an operation of the CRC unit, of
the codec, of the receiver, or SYS.RESET. -/
inductive Completes (s : State) : Instr → State → Prop where
  | crc {i : Instr} (f8 : Byte → Byte) (f16 : Half → Half) (out : Byte → Half → Output)
      (hi : agentOf i = .crcPort)
      (hexec : ∀ u : State, exec i u = .next { u with
        c8Acc := f8 u.c8Acc, c16Acc := f16 u.c16Acc, outputs := u.outputs ++ [out u.c8Acc u.c16Acc] }) :
      Completes s i { s with
        c8Acc := f8 s.c8Acc, c16Acc := f16 s.c16Acc, outputs := s.outputs ++ [out s.c8Acc s.c16Acc] }
  | txBuild (cmd : Half) (p : List Byte) (hp : p.length ≤ maxPayload) :
      Completes s (.txBuild cmd p) { s with
        txSeq := s.txSeq + 1#8, outputs := s.outputs ++ [.frame (buildFrame s.cfg.sof s.txSeq cmd p)] }
  | valParse (n : Half) (bs : List Byte) :
      Completes s (.valParse n bs) { s with
        outputs := s.outputs ++ [.parsed (parseFrame s.cfg.sof n bs) (parseReason s.cfg.sof n bs)] }
  | rxByte {i : Instr} {b : Byte} {r : Rx} {e : Event} (hi : i = s.rx.state.subForm b ∨ i = .rxByte b)
      (hstep : rxStep s.cfg s.rx b = .ok (r, e)) :
      Completes s i { s with rx := r, outputs := s.outputs ++ [.event e] }
  | rxAbort : Completes s .rxAbort { s with rx := s.rx.dropFrame, outputs := s.outputs ++ [.none] }
  | sysReset :
      Completes s .sysReset { s with
        c8Acc := init8, c16Acc := init16, txSeq := 0x00#8, rx := s.rx.resetRegs s.cfg,
        outputs := s.outputs ++ [.none] }

/-- An RX.BYTE that completes, under either of its names. -/
theorem Completes.of_finishRx {s t : State} {i : Instr} {b : Byte}
    (hi : i = s.rx.state.subForm b ∨ i = .rxByte b) (h : s.finishRx (rxStep s.cfg s.rx b) = .next t) :
    Completes s i t := by
  obtain ⟨r, e, hstep, rfl⟩ := State.finishRx_next h
  exact .rxByte hi hstep

/-- A sub-form that completes was selected, and is RX.BYTE under its other name. -/
theorem Completes.of_subForm {s t : State} {st : RxState} {b : Byte} (h : exec (st.subForm b) s = .next t) :
    Completes s (st.subForm b) t := by
  by_cases hst : s.rx.state = st
  · refine .of_finishRx (.inl (by rw [hst])) ?_
    rwa [← exec_subForm b hst]
  · rw [exec_subForm_of_ne b (Ne.symm hst)] at h
    cases h

theorem completes_of_exec {i : Instr} {s t : State} (h : exec i s = .next t) : Completes s i t := by
  cases i with
  | crc8Init => cases h; exact .crc (fun _ => init8) id (fun _ _ => .none) rfl exec_crc8Init
  | crc8Feed b => cases h; exact .crc (feed8 · b) id (fun _ _ => .none) rfl (exec_crc8Feed b)
  | crc8Value => cases h; exact .crc id id (fun a _ => .crc8 (value8 a)) rfl exec_crc8Value
  | crc8Compute bs => cases h; exact .crc id id (fun _ _ => .crc8 (crc8 bs)) rfl (exec_crc8Compute bs)
  | crc16Init => cases h; exact .crc id (fun _ => init16) (fun _ _ => .none) rfl exec_crc16Init
  | crc16Feed b => cases h; exact .crc id (feed16 · b) (fun _ _ => .none) rfl (exec_crc16Feed b)
  | crc16Value => cases h; exact .crc id id (fun _ a => .crc16 (value16 a)) rfl exec_crc16Value
  | crc16Compute bs => cases h; exact .crc id id (fun _ _ => .crc16 (crc16 bs)) rfl (exec_crc16Compute bs)
  | txBuild cmd p =>
    by_cases hp : p.length ≤ maxPayload
    · rw [exec_txBuild hp] at h
      cases h
      exact .txBuild cmd p hp
    · rw [exec_txBuild_tooLong (Nat.not_le.mp hp)] at h
      cases h
  | valParse n bs => cases h; exact .valParse n bs
  | rxByte b => exact .of_finishRx (.inr rfl) h
  | rxByteSof b => exact .of_subForm (st := .sof) h
  | rxByteDlen b => exact .of_subForm (st := .dlen) h
  | rxByteSeq b => exact .of_subForm (st := .seq) h
  | rxByteCrc8 b => exact .of_subForm (st := .crc8) h
  | rxByteCmd b => exact .of_subForm (st := .cmd) h
  | rxByteData b => exact .of_subForm (st := .data) h
  | rxByteCrc16 b => exact .of_subForm (st := .crc16) h
  | rxAbort => cases h; exact .rxAbort
  | reservedC | reservedD | reservedE => cases h
  | sysReset => cases h; exact .sysReset

/-- The only operation that faults is RX.BYTE, under either of its names. -/
theorem rxStep_of_exec_fault {i : Instr} {s : State} {f : Fault} (h : exec i s = .fault f) :
    ∃ b : Byte, rxStep s.cfg s.rx b = .error f := by
  have of_finishRx {b : Byte} (h : s.finishRx (rxStep s.cfg s.rx b) = .fault f) :
      ∃ b : Byte, rxStep s.cfg s.rx b = .error f := by
    refine ⟨b, ?_⟩
    cases hr : rxStep s.cfg s.rx b with
    | ok p => rw [hr] at h; cases h
    | error g => rw [hr] at h; cases h; rfl
  have of_subForm {st : RxState} {b : Byte} (h : exec (st.subForm b) s = .fault f) :
      ∃ b : Byte, rxStep s.cfg s.rx b = .error f := by
    by_cases hst : s.rx.state = st
    · rw [exec_subForm b hst] at h
      exact of_finishRx h
    · rw [exec_subForm_of_ne b (Ne.symm hst)] at h
      cases h
  cases i with
  | rxByte b => exact of_finishRx h
  | rxByteSof b => exact of_subForm (st := .sof) h
  | rxByteDlen b => exact of_subForm (st := .dlen) h
  | rxByteSeq b => exact of_subForm (st := .seq) h
  | rxByteCrc8 b => exact of_subForm (st := .crc8) h
  | rxByteCmd b => exact of_subForm (st := .cmd) h
  | rxByteData b => exact of_subForm (st := .data) h
  | rxByteCrc16 b => exact of_subForm (st := .crc16) h
  | txBuild cmd p =>
    by_cases hp : p.length ≤ maxPayload
    · rw [exec_txBuild hp] at h
      cases h
    · rw [exec_txBuild_tooLong (Nat.not_le.mp hp)] at h
      cases h
  | _ => cases h

/-! ## What an operation writes (10_state.md R22) -/

/-- The two states hold the same values in the unit of agent `a`; the agents without a unit of their own
hold nothing to compare. -/
def State.agreeOn (a : Agent) (s s' : State) : Prop :=
  match a with
  | .crcPort => s.c8Acc = s'.c8Acc ∧ s.c16Acc = s'.c16Acc
  | .tx => s.txSeq = s'.txSeq
  | .rx => s.rx = s'.rx
  | .any | .environment => True

theorem State.agreeOn.refl (a : Agent) (s : State) : s.agreeOn a s := by
  cases a <;> simp [State.agreeOn]

theorem State.agreeOn.symm {a : Agent} {s s' : State} (h : s.agreeOn a s') : s'.agreeOn a s := by
  cases a <;> simp_all [State.agreeOn]

theorem State.agreeOn.trans {a : Agent} {s s' s'' : State} (h : s.agreeOn a s') (h' : s'.agreeOn a s'') :
    s.agreeOn a s'' := by
  cases a <;> simp_all [State.agreeOn]

/-- Whichever of its two names it has, RX.BYTE is the receiver's. -/
theorem agentOf_of_rxByte {i : Instr} {st : RxState} {b : Byte} (hi : i = st.subForm b ∨ i = .rxByte b) :
    agentOf i = .rx := by
  obtain rfl | rfl := hi
  · cases st <;> rfl
  · rfl

/-- `CFG` and the waiting operations are written by none, and each operation appends one result. -/
theorem exec_keeps_cfg_issue {i : Instr} {s t : State} (h : exec i s = .next t) :
    t.cfg = s.cfg ∧ t.issue = s.issue ∧ ∃ o : Output, t.outputs = s.outputs ++ [o] := by
  cases completes_of_exec h <;> exact ⟨rfl, rfl, _, rfl⟩

theorem exec_cfg {i : Instr} {s t : State} (h : exec i s = .next t) : t.cfg = s.cfg :=
  (exec_keeps_cfg_issue h).1

/-- An operation other than SYS.RESET leaves the units of the other agents as they are. -/
theorem exec_agreeOn_of_ne {i : Instr} {s t : State} {a : Agent} (h : exec i s = .next t)
    (hi : i ≠ .sysReset) (ha : a ≠ agentOf i) : s.agreeOn a t := by
  cases completes_of_exec h with
  | crc f8 f16 out hcrc hexec =>
    cases a with
    | crcPort => exact absurd hcrc.symm ha
    | tx | rx => rfl
    | any | environment => trivial
  | txBuild cmd p hp =>
    cases a with
    | tx => exact absurd rfl ha
    | crcPort => exact ⟨rfl, rfl⟩
    | rx => rfl
    | any | environment => trivial
  | valParse n bs => exact State.agreeOn.refl a s
  | rxByte hname hstep =>
    cases a with
    | rx => exact absurd (agentOf_of_rxByte hname).symm ha
    | crcPort => exact ⟨rfl, rfl⟩
    | tx => rfl
    | any | environment => trivial
  | rxAbort =>
    cases a with
    | rx => exact absurd rfl ha
    | crcPort => exact ⟨rfl, rfl⟩
    | tx => rfl
    | any | environment => trivial
  | sysReset => exact absurd rfl hi

/-- Of the CRC unit's operations, INIT and FEED of its own width alone write an accumulator. -/
theorem c8Acc_written {i : Instr} {s t : State} (h : exec i s = .next t) (hne : t.c8Acc ≠ s.c8Acc) :
    i = .crc8Init ∨ (∃ b : Byte, i = .crc8Feed b) ∨ i = .sysReset := by
  by_cases hreset : i = .sysReset
  · exact .inr (.inr hreset)
  by_cases hcrc : agentOf i = .crcPort
  · cases i with
    | crc8Init => exact .inl rfl
    | crc8Feed b => exact .inr (.inl ⟨b, rfl⟩)
    | crc8Value | crc8Compute | crc16Init | crc16Feed | crc16Value | crc16Compute =>
      cases h; exact absurd rfl hne
    | _ => cases hcrc
  · exact absurd (exec_agreeOn_of_ne h hreset (Ne.symm hcrc)).1.symm hne

theorem c16Acc_written {i : Instr} {s t : State} (h : exec i s = .next t) (hne : t.c16Acc ≠ s.c16Acc) :
    i = .crc16Init ∨ (∃ b : Byte, i = .crc16Feed b) ∨ i = .sysReset := by
  by_cases hreset : i = .sysReset
  · exact .inr (.inr hreset)
  by_cases hcrc : agentOf i = .crcPort
  · cases i with
    | crc16Init => exact .inl rfl
    | crc16Feed b => exact .inr (.inl ⟨b, rfl⟩)
    | crc16Value | crc16Compute | crc8Init | crc8Feed | crc8Value | crc8Compute =>
      cases h; exact absurd rfl hne
    | _ => cases hcrc
  · exact absurd (exec_agreeOn_of_ne h hreset (Ne.symm hcrc)).2.symm hne

theorem txBuild_of_agentOf {i : Instr} (h : agentOf i = .tx) : ∃ (cmd : Half) (p : List Byte), i = .txBuild cmd p := by
  cases i with
  | txBuild cmd p => exact ⟨cmd, p, rfl⟩
  | _ => cases h

/-- `tx_seq` is written by TX.BUILD and SYS.RESET only (10_state.md R23). -/
theorem txSeq_written {i : Instr} {s t : State} (h : exec i s = .next t) (hne : t.txSeq ≠ s.txSeq) :
    (∃ (cmd : Half) (p : List Byte), i = .txBuild cmd p) ∨ i = .sysReset := by
  by_cases hreset : i = .sysReset
  · exact .inr hreset
  by_cases htx : agentOf i = .tx
  · exact .inl (txBuild_of_agentOf htx)
  · exact absurd (exec_agreeOn_of_ne h hreset (Ne.symm htx)).symm hne

/-- Settles O47: `CFG` and the two lists, then one unit after the other; RX.ABORT and SYS.RESET are read
off their next states. -/
theorem unitsWriteOnlyTheirOwnState : Obligations.UnitsWriteOnlyTheirOwnState := by
  unfold Obligations.UnitsWriteOnlyTheirOwnState
  intro i s t h
  obtain ⟨hcfg, hissue, houtput⟩ := exec_keeps_cfg_issue h
  refine ⟨hcfg, hissue, houtput, c8Acc_written h, c16Acc_written h, txSeq_written h, ?rx, ?abort, ?reset⟩
  case rx =>
    intro hne
    by_contra hnone
    obtain ⟨hrx, hreset⟩ := not_or.mp hnone
    exact hne (exec_agreeOn_of_ne h hreset (Ne.symm hrx)).symm
  case abort =>
    rintro rfl
    cases h
    exact ⟨rfl, rfl, rfl, rfl, rfl⟩
  case reset =>
    rintro rfl
    cases h
    rfl

/-! ## What an operation reads -/

/-- An operation other than SYS.RESET, run in another state that agrees with the first on `CFG` and on the
operation's own unit, does the same there to that unit and returns the same result. -/
theorem exec_of_agreeOn {i : Instr} {s s' t : State} (h : exec i s = .next t) (hi : i ≠ .sysReset)
    (hcfg : s.cfg = s'.cfg) (hunit : s.agreeOn (agentOf i) s') :
    ∃ (t' : State) (o : Output), exec i s' = .next t' ∧ t'.agreeOn (agentOf i) t ∧
      t.outputs = s.outputs ++ [o] ∧ t'.outputs = s'.outputs ++ [o] := by
  cases completes_of_exec h with
  | crc f8 f16 out hcrc hexec =>
    rw [hcrc] at hunit ⊢
    obtain ⟨h8, h16⟩ := hunit
    exact ⟨_, _, hexec s', ⟨by rw [h8], by rw [h16]⟩, rfl, by rw [h8, h16]⟩
  | txBuild cmd p hp =>
    have hseq : s.txSeq = s'.txSeq := hunit
    exact ⟨_, _, exec_txBuild hp cmd s', congrArg (· + 1#8) hseq.symm, rfl, by rw [hseq, hcfg]⟩
  | valParse n bs => exact ⟨_, _, exec_valParse n bs s', trivial, rfl, by rw [hcfg]⟩
  | rxByte hname hstep =>
    rw [agentOf_of_rxByte hname] at hunit ⊢
    have hrx : s.rx = s'.rx := hunit
    rw [hcfg, hrx] at hstep
    rw [hrx] at hname
    exact ⟨_, _, exec_of_rxStep rfl hname hstep, rfl, rfl, rfl⟩
  | rxAbort =>
    have hrx : s.rx = s'.rx := hunit
    exact ⟨_, _, exec_rxAbort s', congrArg Rx.dropFrame hrx.symm, rfl, rfl⟩
  | sysReset => exact absurd rfl hi

/-- Settles O48: the four clauses are one fact about the operation's own unit. -/
theorem unitsDoNotReadEachOther : Obligations.UnitsDoNotReadEachOther := by
  unfold Obligations.UnitsDoNotReadEachOther
  intro i s s' t hcfg h
  have hlocal {a : Agent} (ha : agentOf i = a) (hne : a ≠ .environment) (hunit : s.agreeOn a s') :
      ∃ (t' : State) (o : Output), exec i s' = .next t' ∧ t'.agreeOn a t ∧
        t.outputs = s.outputs ++ [o] ∧ t'.outputs = s'.outputs ++ [o] := by
    subst ha
    exact exec_of_agreeOn h (fun hreset => hne (by rw [hreset]; rfl)) hcfg hunit
  refine ⟨fun ha h8 h16 => ?crc, fun ha hseq => ?tx, fun ha hrx => ?rx, fun ha => ?any⟩
  case crc =>
    obtain ⟨t', o, hexec, ⟨h8', h16'⟩, ho, ho'⟩ := hlocal ha (by decide) ⟨h8, h16⟩
    exact ⟨t', o, hexec, h8', h16', ho, ho'⟩
  case tx => exact hlocal ha (by decide) hseq
  case rx => exact hlocal ha (by decide) hrx
  case any =>
    obtain ⟨t', o, hexec, -, ho, ho'⟩ := hlocal ha (by decide) trivial
    exact ⟨t', o, hexec, ho, ho'⟩

/-! ## Operations of different agents (20_memory.md section 5) -/

/-- States that agree on `CFG`, on the waiting operations and on every unit differ in the record of
results only. -/
theorem State.eq_of_agreeOn {s s' : State} (hcfg : s.cfg = s'.cfg) (hissue : s.issue = s'.issue)
    (hunits : ∀ a : Agent, s.agreeOn a s') : { s with outputs := [] } = { s' with outputs := [] } := by
  obtain ⟨h8, h16⟩ := hunits .crcPort
  have htx : s.txSeq = s'.txSeq := hunits .tx
  have hrx : s.rx = s'.rx := hunits .rx
  rw [hcfg, hissue, h8, h16, htx, hrx]

/-- Settles O49: neither operation writes what the other reads, so each does the same after the other as
before it; the unit of each agent is left by that agent's operation in both orders. -/
theorem agentsCommute : Obligations.AgentsCommute := by
  unfold Obligations.AgentsCommute
  intro i j s si sj hi hj hne hsi hsj
  have notReset {k : Instr} (hk : agentOf k = .crcPort ∨ agentOf k = .tx ∨ agentOf k = .rx) : k ≠ .sysReset := by
    rintro rfl
    obtain h | h | h := hk <;> cases h
  obtain ⟨hcfgi, hissuei, -⟩ := exec_keeps_cfg_issue hsi
  obtain ⟨hcfgj, hissuej, -⟩ := exec_keeps_cfg_issue hsj
  obtain ⟨sij, oj, hsij, hunitj, hoj, hoij⟩ :=
    exec_of_agreeOn hsj (notReset hj) hcfgi.symm (exec_agreeOn_of_ne hsi (notReset hi) (Ne.symm hne))
  obtain ⟨sji, oi, hsji, huniti, hoi, hoji⟩ :=
    exec_of_agreeOn hsi (notReset hi) hcfgj.symm (exec_agreeOn_of_ne hsj (notReset hj) hne)
  obtain ⟨hcfgij, hissueij, -⟩ := exec_keeps_cfg_issue hsij
  obtain ⟨hcfgji, hissueji, -⟩ := exec_keeps_cfg_issue hsji
  refine ⟨sij, sji, oi, oj, hsij, hsji, hoi, hoj, by simp [hoij, hoi], by simp [hoji, hoj], ?_⟩
  refine State.eq_of_agreeOn (by rw [hcfgij, hcfgi, hcfgji, hcfgj])
    (by rw [hissueij, hissuei, hissueji, hissuej]) fun a => ?_
  by_cases hai : a = agentOf i
  · subst hai
    exact (exec_agreeOn_of_ne hsij (notReset hj) hne).symm.trans huniti.symm
  · by_cases haj : a = agentOf j
    · subst haj
      exact hunitj.trans (exec_agreeOn_of_ne hsji (notReset hi) hai)
    · have hbefore : si.agreeOn a sj :=
        (exec_agreeOn_of_ne hsi (notReset hi) hai).symm.trans (exec_agreeOn_of_ne hsj (notReset hj) haj)
      exact ((exec_agreeOn_of_ne hsij (notReset hj) haj).symm.trans hbefore).trans
        (exec_agreeOn_of_ne hsji (notReset hi) hai)

end Sys2Proof.Machine
end

section
/-!
The receiver's step (42_receiver.md), over all states: its inversion, one case for each outcome of a
sub-form; totality in the ranges of 10_state.md R37; what the remaining sub-forms CMD and CRC16 answer
(R162, R166, R168); and what the rules about all states read off the inversion (R170, R202, R195, R34).
-/

namespace Sys2Proof.Machine

/-! ## The inversion of RX.BYTE -/

/-- The outcomes of one byte: the receiver afterwards and the event, one case for each row of
42_receiver.md R170. -/
inductive RxMove (cfg : Config) (r : Rx) (b : Byte) : Rx → Event → Prop where
  | noise (hst : r.state = .sof) (hb : b ≠ cfg.sof) : RxMove cfg r b r .badSof
  | start (hst : r.state = .sof) (hb : b = cfg.sof) :
      RxMove cfg r b { (r.clear.seed.feedBoth b) with state := .dlen } .none
  | dlenLow (hst : r.state = .dlen) (ho : r.offset = 0#16) :
      RxMove cfg r b { (r.feedBoth b) with dlen := zext16 b, offset := 1#16 } .none
  | dlenOverflow (hst : r.state = .dlen) (ho : r.offset ≠ 0#16)
      (hover : cfg.maxDlen < le16 (loByte r.dlen) b) :
      RxMove cfg r b (r.feedBoth b).dropFrame .dlenOverflow
  | dlenHigh (hst : r.state = .dlen) (ho : r.offset ≠ 0#16)
      (hfits : le16 (loByte r.dlen) b ≤ cfg.maxDlen) :
      RxMove cfg r b
        { (r.feedBoth b) with dlen := le16 (loByte r.dlen) b, offset := 0#16, state := .seq } .none
  | seq (hst : r.state = .seq) :
      RxMove cfg r b { ({ (r.feedBoth b) with seq := b }.markDuplicate cfg b) with state := .crc8 } .none
  | crc8Match (hst : r.state = .crc8) (hb : b = value8 r.c8Acc) :
      RxMove cfg r b { r with c16Acc := feed16 r.c16Acc b, state := .cmd } .none
  | crc8Mismatch (hst : r.state = .crc8) (hb : b ≠ value8 r.c8Acc) :
      RxMove cfg r b r.dropFrame .crc8Mismatch
  | cmdLow (hst : r.state = .cmd) (ho : r.offset = 0#16) :
      RxMove cfg r b { (r.feedBoth b) with cmd := zext16 b, offset := 1#16 } .none
  | cmdEmpty (hst : r.state = .cmd) (ho : r.offset ≠ 0#16) (hempty : r.dlen = 0#16) :
      RxMove cfg r b
        { (r.feedBoth b) with cmd := le16 (loByte r.cmd) b, offset := 0#16, state := .crc16 } .none
  | cmdPayload (hst : r.state = .cmd) (ho : r.offset ≠ 0#16) (hpayload : r.dlen ≠ 0#16) :
      RxMove cfg r b
        { (r.feedBoth b) with cmd := le16 (loByte r.cmd) b, offset := 0#16, state := .data } .none
  | dataLast (hst : r.state = .data) (hexists : r.offset < cfg.maxDlen) (hlast : r.offset + 1#16 = r.dlen) :
      RxMove cfg r b
        { (r.feedBoth b) with buf := r.buf.write r.offset.toNat b, offset := 0#16, state := .crc16 } .none
  | dataMore (hst : r.state = .data) (hexists : r.offset < cfg.maxDlen) (hmore : r.offset + 1#16 ≠ r.dlen) :
      RxMove cfg r b
        { (r.feedBoth b) with buf := r.buf.write r.offset.toNat b, offset := r.offset + 1#16 } .none
  | crc16Low (hst : r.state = .crc16) (ho : r.offset = 0#16) :
      RxMove cfg r b { r with crc16Value := zext16 b, offset := 1#16 } .none
  | frameEnd {e : Event} (hst : r.state = .crc16) (ho : r.offset ≠ 0#16)
      (hend : { r with crc16Value := le16 (loByte r.crc16Value) b }.frameEndEvent cfg = .ok e) :
      RxMove cfg r b r.dropFrame e

theorem rxMove_of_rxStep {cfg : Config} {r r' : Rx} {b : Byte} {e : Event} (h : rxStep cfg r b = .ok (r', e)) :
    RxMove cfg r b r' e := by
  cases hst : r.state with
  | sof =>
    rw [rxStep_sof b hst] at h
    obtain ⟨hb, rfl, rfl⟩ | ⟨hb, rfl, rfl⟩ := rxSof_cases h
    · exact .noise hst hb
    · exact .start hst hb
  | dlen =>
    rw [rxStep_dlen b hst] at h
    obtain ⟨ho, rfl, rfl⟩ | ⟨ho, hover, rfl, rfl⟩ | ⟨ho, hfits, rfl, rfl⟩ := rxDlen_cases h
    · exact .dlenLow hst ho
    · exact .dlenOverflow hst ho hover
    · exact .dlenHigh hst ho hfits
  | seq =>
    rw [rxStep_seq b hst] at h
    obtain ⟨rfl, rfl⟩ := rxSeq_cases h
    exact .seq hst
  | crc8 =>
    rw [rxStep_crc8 b hst] at h
    obtain ⟨hb, rfl, rfl⟩ | ⟨hb, rfl, rfl⟩ := rxCrc8_cases h
    · exact .crc8Match hst hb
    · exact .crc8Mismatch hst hb
  | cmd =>
    rw [rxStep_cmd b hst] at h
    obtain ⟨rfl, ⟨ho, rfl⟩ | ⟨ho, hd, rfl⟩ | ⟨ho, hd, rfl⟩⟩ := rxCmd_cases h
    · exact .cmdLow hst ho
    · exact .cmdEmpty hst ho hd
    · exact .cmdPayload hst ho hd
  | data =>
    rw [rxStep_data b hst] at h
    obtain ⟨hexists, rfl, ⟨hl, rfl⟩ | ⟨hl, rfl⟩⟩ := rxData_cases h
    · exact .dataLast hst hexists hl
    · exact .dataMore hst hexists hl
  | crc16 =>
    rw [rxStep_crc16 b hst] at h
    obtain ⟨ho, rfl, rfl⟩ | ⟨ho, rfl, hend⟩ := rxCrc16_cases h
    · exact .crc16Low hst ho
    · exact .frameEnd hst ho hend

/-- An RX.BYTE that completes, seen from the machine: its move, and the next state whole. -/
theorem rxMove_of_exec {s t : State} {b : Byte} (h : exec (.rxByte b) s = .next t) :
    ∃ (r : Rx) (e : Event), RxMove s.cfg s.rx b r e ∧
      t = { s with rx := r, outputs := s.outputs ++ [.event e] } := by
  obtain ⟨r, e, hstep, rfl⟩ := State.finishRx_next h
  exact ⟨r, e, rxMove_of_rxStep hstep, rfl⟩

/-- One record of results has one last event. -/
theorem event_of_outputs {os : List Output} {e e' : Event} (h : os ++ [.event e] = os ++ [.event e']) : e = e' := by
  simpa using h

/-- The same, for a byte whose event is known from the record of results. -/
theorem rxMove_of_exec_event {s t : State} {b : Byte} {e : Event} (h : exec (.rxByte b) s = .next t)
    (hout : t.outputs = s.outputs ++ [.event e]) :
    ∃ r : Rx, RxMove s.cfg s.rx b r e ∧ t = { s with rx := r, outputs := s.outputs ++ [.event e] } := by
  obtain ⟨r, e', hmove, rfl⟩ := rxMove_of_exec h
  obtain rfl := event_of_outputs hout
  exact ⟨r, hmove, rfl⟩

/-! ## State CMD (R162) -/

section
variable {cfg : Config} {r : Rx} {b : Byte}

theorem rxCmd_low (ho : r.offset = 0#16) :
    rxCmd r b = .ok ({ (r.feedBoth b) with cmd := zext16 b, offset := 1#16 }, .none) := if_pos ho

theorem rxCmd_high (ho : r.offset ≠ 0#16) :
    rxCmd r b = .ok ({ (r.feedBoth b) with
      cmd := le16 (loByte r.cmd) b, offset := 0#16,
      state := if r.dlen = 0#16 then .crc16 else .data }, .none) := if_neg ho

/-! ## State CRC16 (R166) and the end of a frame (R168) -/

theorem rxCrc16_low (ho : r.offset = 0#16) :
    rxCrc16 cfg r b = .ok ({ r with crc16Value := zext16 b, offset := 1#16 }, .none) := if_pos ho

/-- The second byte ends the frame with what the frame-end decision answers, a fault included. -/
theorem rxCrc16_high (ho : r.offset ≠ 0#16) :
    rxCrc16 cfg r b =
      ({ r with crc16Value := le16 (loByte r.crc16Value) b }.frameEndEvent cfg).map fun e => (r.dropFrame, e) :=
  if_neg ho

theorem rxCrc16_end {e : Event} (ho : r.offset ≠ 0#16)
    (hend : { r with crc16Value := le16 (loByte r.crc16Value) b }.frameEndEvent cfg = .ok e) :
    rxCrc16 cfg r b = .ok (r.dropFrame, e) := by
  rw [rxCrc16_high ho, hend]
  rfl

theorem frameEndEvent_mismatch (hcrc : reflect r.c16Acc ≠ r.crc16Value) :
    r.frameEndEvent cfg = .ok .crc16Mismatch := by
  rw [Rx.frameEndEvent, value16_eq_reflect, if_pos hcrc]

theorem frameEndEvent_duplicate (hcrc : reflect r.c16Acc = r.crc16Value) (hdup : r.abandon = true) :
    r.frameEndEvent cfg = .ok .duplicate := by
  rw [Rx.frameEndEvent, value16_eq_reflect, if_neg (not_not_intro hcrc), if_pos hdup]

/-- Past the CRC and the flag it is the subscription that decides. -/
theorem frameEndEvent_accepted (hcrc : reflect r.c16Acc = r.crc16Value) (hdup : r.abandon = false) :
    r.frameEndEvent cfg = if subscribed cfg r.cmd then (r.payload cfg).map (Event.dispatch r.cmd)
      else .ok (.unknownCmd r.cmd r.dlen) := by
  rw [Rx.frameEndEvent, value16_eq_reflect, if_neg (not_not_intro hcrc), hdup]
  cases subscribed cfg r.cmd <;> rfl

theorem frameEndEvent_unknownCmd (hcrc : reflect r.c16Acc = r.crc16Value) (hdup : r.abandon = false)
    (hsub : subscribed cfg r.cmd = false) : r.frameEndEvent cfg = .ok (.unknownCmd r.cmd r.dlen) := by
  rw [frameEndEvent_accepted hcrc hdup, hsub]
  rfl

theorem frameEndEvent_dispatch (hcrc : reflect r.c16Acc = r.crc16Value) (hdup : r.abandon = false)
    (hsub : subscribed cfg r.cmd = true) (hfits : r.dlen ≤ cfg.maxDlen) :
    r.frameEndEvent cfg = .ok (.dispatch r.cmd (r.buf.firstBytes r.dlen.toNat)) := by
  rw [frameEndEvent_accepted hcrc hdup, if_pos hsub, Rx.payload, if_pos hfits]
  rfl

/-- A payload that does not lie in the buffer cannot be read (20_memory.md R56; log 8). -/
theorem frameEndEvent_fault (hcrc : reflect r.c16Acc = r.crc16Value) (hdup : r.abandon = false)
    (hsub : subscribed cfg r.cmd = true) (hover : cfg.maxDlen < r.dlen) :
    r.frameEndEvent cfg = .error (.rxBufIndex cfg.maxDlen.toNat) := by
  rw [frameEndEvent_accepted hcrc hdup, if_pos hsub, Rx.payload, if_neg (BitVec.not_le.mpr hover)]
  rfl

/-- Every frame end is one of events 4 to 7 (60_exceptions.md R190). -/
theorem four_le_code_of_frameEndEvent {e : Event} (h : r.frameEndEvent cfg = .ok e) : 4#3 ≤ e.code := by
  obtain ⟨-, rfl⟩ | ⟨-, -, rfl⟩ | ⟨-, -, -, rfl⟩ | ⟨-, -, -, -, rfl⟩ := frameEndEvent_cases h <;>
    simp [Event.code]

end

/-! ## Totality (R150) -/

/-- In the ranges of 10_state.md R37 every byte is answered. -/
theorem rxStep_total {cfg : Config} {r : Rx} (h : r.inRange cfg) (b : Byte) :
    ∃ (r' : Rx) (e : Event), rxStep cfg r b = .ok (r', e) := by
  unfold Rx.inRange at h
  cases hst : r.state with
  | sof =>
    rw [rxStep_sof b hst, rxSof]
    split
    · exact ⟨_, _, rfl⟩
    · exact ⟨_, _, rfl⟩
  | dlen =>
    rw [rxStep_dlen b hst]
    by_cases ho : r.offset = 0#16
    · exact ⟨_, _, rxDlen_low ho⟩
    · rw [rxDlen_high ho]
      split
      · exact ⟨_, _, rfl⟩
      · exact ⟨_, _, rfl⟩
  | seq => exact ⟨_, _, rxStep_seq b hst⟩
  | crc8 =>
    rw [rxStep_crc8 b hst, rxCrc8]
    split
    · exact ⟨_, _, rfl⟩
    · exact ⟨_, _, rfl⟩
  | cmd =>
    rw [rxStep_cmd b hst]
    by_cases ho : r.offset = 0#16
    · exact ⟨_, _, rxCmd_low ho⟩
    · exact ⟨_, _, rxCmd_high ho⟩
  | data =>
    rw [hst] at h
    obtain ⟨hlt, hfits⟩ := h
    exact ⟨_, _, (rxStep_data b hst).trans (rxData_stores hst hlt hfits)⟩
  | crc16 =>
    rw [hst] at h
    obtain ⟨-, hfits⟩ := h
    rw [rxStep_crc16 b hst]
    by_cases ho : r.offset = 0#16
    · exact ⟨_, _, rxCrc16_low ho⟩
    · obtain ⟨e, hend⟩ := frameEndEvent_total (cfg := cfg)
        (r := { r with crc16Value := le16 (loByte r.crc16Value) b }) hfits
      exact ⟨_, e, rxCrc16_end ho hend⟩

/-! ## The obligations of 42_receiver.md section 2 -/

/-- The second byte of a 16-bit field: the offset that says so is not 0. -/
theorem offset_ne_zero_of_eq_one {r : Rx} (ho : r.offset = 1#16) : r.offset ≠ 0#16 :=
  ho.trans_ne (by decide)

/-- Settles O34: the first byte, or the second, whatever the payload length. -/
theorem rxByteCmdAssemblesCommand : Obligations.RxByteCmdAssemblesCommand := by
  unfold Obligations.RxByteCmdAssemblesCommand
  intro s b i hst hi
  have hstep := rxStep_cmd (cfg := s.cfg) b hst
  refine ⟨fun ho => ?low, fun ho => ?high⟩
  case low => exact exec_of_rxStep hst hi (hstep.trans (rxCmd_low ho))
  case high => exact exec_of_rxStep hst hi (hstep.trans (rxCmd_high (offset_ne_zero_of_eq_one ho)))

/-- Membership of `CFG.SUBSCRIBED` where the set is every id but the exceptions (00_scope.md R11). -/
theorem subscribed_everyId {cfg : Config} {cmd : Half} (h : cfg.subscribed.everyId = true) :
    subscribed cfg cmd = true ↔ cmd ∉ cfg.subscribed.exceptions := by
  rw [subscribed, h]
  split <;> simp_all

/-- Membership of `CFG.SUBSCRIBED` where the set is the listed ids (00_scope.md R11). -/
theorem subscribed_listed {cfg : Config} {cmd : Half} (h : cfg.subscribed.everyId = false) :
    subscribed cfg cmd = true ↔ cmd ∈ cfg.subscribed.exceptions := by
  rw [subscribed, h]
  split <;> simp_all

/-- The ids that a predicate holds of, listed (log 3). -/
def IdSet.ofPred (member : Half → Bool) : IdSet where
  everyId    := false
  exceptions := ((List.range 65536).map (BitVec.ofNat 16)).filter member

theorem IdSet.mem_ofPred (member : Half → Bool) (cmd : Half) :
    cmd ∈ (IdSet.ofPred member).exceptions ↔ member cmd = true := by
  have hlisted : cmd ∈ (List.range 65536).map (BitVec.ofNat 16) :=
    List.mem_map.mpr ⟨cmd.toNat, List.mem_range.mpr cmd.isLt, by simp⟩
  simp only [IdSet.ofPred, List.mem_filter, hlisted, true_and]

/-- Settles O36: the first byte, or the second with each of the four outcomes of the frame-end decision;
a subset of the ids is written by listing it. -/
theorem rxByteCrc16EndsFrame : Obligations.RxByteCrc16EndsFrame := by
  unfold Obligations.RxByteCrc16EndsFrame
  refine ⟨fun s b i hst hi => ?frame, fun cfg cmd => ⟨subscribed_everyId, subscribed_listed⟩, fun member => ?sets⟩
  case frame =>
    have hstep := rxStep_crc16 (cfg := s.cfg) b hst
    have ends {e : Event} (ho : s.rx.offset = 1#16)
        (hend : { s.rx with crc16Value := le16 (loByte s.rx.crc16Value) b }.frameEndEvent s.cfg = .ok e) :
        exec i s = .next { s with rx := s.rx.dropFrame, outputs := s.outputs ++ [.event e] } :=
      exec_of_rxStep hst hi (hstep.trans (rxCrc16_end (offset_ne_zero_of_eq_one ho) hend))
    refine ⟨fun ho => ?low, fun ho hcrc => ?mismatch, fun ho hcrc hdup => ?duplicate,
      fun ho hcrc hdup hsub => ?unknownCmd, fun ho hcrc hdup hsub hfits => ?dispatch⟩
    case low => exact exec_of_rxStep hst hi (hstep.trans (rxCrc16_low ho))
    case mismatch => exact ends ho (frameEndEvent_mismatch hcrc)
    case duplicate => exact ends ho (frameEndEvent_duplicate hcrc hdup)
    case unknownCmd => exact ends ho (frameEndEvent_unknownCmd hcrc hdup hsub)
    case dispatch => exact ends ho (frameEndEvent_dispatch hcrc hdup hsub hfits)
  case sets =>
    refine ⟨IdSet.ofPred member, fun cfg cmd hids => ?_⟩
    have hlisted : cfg.subscribed.everyId = false := by rw [hids]; rfl
    rw [Bool.eq_iff_iff, subscribed_listed hlisted, hids, IdSet.mem_ofPred]

/-- Settles O37: the store of state DATA, and the read of the dispatch at the end of a frame. -/
theorem absentBufferIndexFaults : Obligations.AbsentBufferIndexFaults := by
  unfold Obligations.AbsentBufferIndexFaults
  refine ⟨fun s b hst habsent => ?store, fun s b hst ho hover hcrc hdup hsub => ?read⟩
  case store =>
    rw [exec_rxByte, rxStep_data b hst, rxData, if_neg (BitVec.not_lt.mpr habsent)]
    rfl
  case read =>
    have hfault : { s.rx with crc16Value := le16 (loByte s.rx.crc16Value) b }.frameEndEvent s.cfg =
        .error (.rxBufIndex s.cfg.maxDlen.toNat) := frameEndEvent_fault hcrc hdup hsub hover
    rw [exec_rxByte, rxStep_crc16 b hst, rxCrc16_high (offset_ne_zero_of_eq_one ho), hfault]
    rfl

/-! ## Rules over all states, read off the moves -/

/-- Settles O43: of the fifteen moves, four report an event of code 2 to 7 and drop the frame. -/
theorem rejectionClearsReceiver : Obligations.RejectionClearsReceiver := by
  unfold Obligations.RejectionClearsReceiver
  refine ⟨⟨rfl, rfl, rfl, rfl, rfl, rfl, fun _ _ => rfl, fun _ _ => rfl⟩, fun s t b e h hout => ?_⟩
  obtain ⟨r, hmove, rfl⟩ := rxMove_of_exec_event h hout
  cases hmove with
  | noise => exact ⟨fun hcode => absurd hcode (by decide), fun _ => rfl⟩
  | dlenOverflow =>
    exact ⟨fun _ => ⟨rfl, rfl, rfl, rfl, rfl, rfl, rfl, rfl, rfl, fun hne => absurd rfl hne, fun _ => ⟨rfl, rfl⟩⟩,
      fun hcode => absurd hcode (by decide)⟩
  | crc8Mismatch =>
    exact ⟨fun _ => ⟨rfl, rfl, rfl, rfl, rfl, rfl, rfl, rfl, rfl, fun _ => ⟨rfl, rfl⟩, nofun⟩,
      fun hcode => absurd hcode (by decide)⟩
  | frameEnd _ _ hend =>
    have hcode := four_le_code_of_frameEndEvent hend
    refine ⟨fun _ => ⟨rfl, rfl, rfl, rfl, rfl, rfl, rfl, rfl, rfl, fun _ => ⟨rfl, rfl⟩, fun he => ?_⟩, fun he => ?_⟩
    · rw [he] at hcode
      exact absurd hcode (by decide)
    · rw [he] at hcode
      exact absurd hcode (by decide)
  | start | dlenLow | dlenHigh | seq | crc8Match | cmdLow | cmdEmpty | cmdPayload | dataLast | dataMore
  | crc16Low => exact ⟨fun hcode => absurd hcode (by decide), fun hcode => absurd hcode (by decide)⟩

/-- Settles O44: the event is a frame end's, which decides on the CRC before it looks at the flag. -/
theorem duplicateNeedsSuppression : Obligations.DuplicateNeedsSuppression := by
  unfold Obligations.DuplicateNeedsSuppression
  intro s t b hflag h hout
  obtain ⟨r, hmove, -⟩ := rxMove_of_exec_event h hout
  cases hmove with
  | frameEnd hst _ hend =>
    obtain ⟨-, he⟩ | ⟨hcrc, hdup, -⟩ | ⟨-, -, -, he⟩ | ⟨-, -, -, -, he⟩ := frameEndEvent_cases hend
    · cases he
    · obtain ⟨hsuppress, -⟩ := hflag hdup
      exact ⟨hsuppress, hst, (value16_eq_reflect _).symm.trans hcrc⟩
    · cases he
    · cases he

/-! ### What one byte writes -/

section
variable {cfg : Config} {r r' : Rx} {b : Byte} {e : Event}

/-- A byte in state DATA is written at index `rx_offset` (10_state.md R34). -/
theorem rxStep_buf_of_data (h : rxStep cfg r b = .ok (r', e)) (hst : r.state = .data) :
    r'.buf = r.buf.write r.offset.toNat b := by
  rw [rxStep_data b hst] at h
  obtain ⟨-, -, ⟨-, rfl⟩ | ⟨-, rfl⟩⟩ := rxData_cases h
  · rfl
  · rfl

/-- A byte in another state leaves `rx_buf` as it is. -/
theorem RxMove.buf_of_ne_data (h : RxMove cfg r b r' e) (hst : r.state ≠ .data) : r'.buf = r.buf := by
  cases h with
  | dataLast hdata | dataMore hdata => exact absurd hdata hst
  | seq => exact Rx.markDuplicate_buf _ _ _
  | _ => rfl

/-- A byte in state SEQ is recorded, and the duplicate policy writes the other two (42_receiver.md R158). -/
theorem rxStep_sequence_of_seq (h : rxStep cfg r b = .ok (r', e)) (hst : r.state = .seq) :
    r'.seq = b ∧ r'.prevSeq = (if cfg.dupSuppress then b else r.prevSeq) ∧
      r'.abandon = (r.abandon || (cfg.dupSuppress && b == r.prevSeq)) := by
  rw [rxStep_seq b hst] at h
  obtain ⟨-, rfl⟩ := rxSeq_cases h
  exact ⟨Rx.markDuplicate_seq _ _ _, Rx.markDuplicate_prevSeq _ _ _, Rx.markDuplicate_abandon _ _ _⟩

/-- A byte in another state writes neither sequence register and does not set the flag. -/
theorem RxMove.sequence_of_ne_seq (h : RxMove cfg r b r' e) (hst : r.state ≠ .seq) :
    r'.seq = r.seq ∧ r'.prevSeq = r.prevSeq ∧ (r'.abandon = true → r.abandon = true) := by
  cases h with
  | seq hseq => exact absurd hseq hst
  | start | dlenOverflow | crc8Mismatch | frameEnd => exact ⟨rfl, rfl, nofun⟩
  | _ => exact ⟨rfl, rfl, id⟩

end

/-- The name under which RX.BYTE was issued, where the state is known. -/
theorem rxByte_name {i : Instr} {st st' : RxState} {b : Byte} (hi : i = st.subForm b ∨ i = .rxByte b)
    (hst : st = st') : i = .rxByte b ∨ i = st'.subForm b :=
  hst ▸ hi.symm

/-- Settles O45: of the operations that complete only RX.BYTE can write `rx_buf`, and it does in state DATA;
a write reads back at its own index alone. -/
theorem onlyDataBytesAreStored : Obligations.OnlyDataBytesAreStored := by
  unfold Obligations.OnlyDataBytesAreStored
  intro i s t h a
  cases completes_of_exec h with
  | crc _ _ _ hcrc _ =>
    refine .inr ⟨?_, rfl⟩
    rintro ⟨b, rfl | rfl, -⟩
    · cases hcrc
    · cases hcrc
  | txBuild | valParse | rxAbort | sysReset =>
    refine .inr ⟨?_, rfl⟩
    rintro ⟨b, hi | hi, -⟩
    · cases hi
    · cases hi
  | @rxByte _ b r e hname hstep =>
    by_cases hdata : s.rx.state = .data
    · have hbuf := rxStep_buf_of_data hstep hdata
      by_cases ha : a = s.rx.offset.toNat
      · refine .inl ⟨b, rxByte_name hname hdata, hdata, ha, ?_⟩
        rw [ha, hbuf]
        exact Memory.read_write_same _ _ _
      · refine .inr ⟨fun ⟨_, _, _, ha'⟩ => ha ha', ?_⟩
        rw [hbuf]
        exact Memory.read_write_other _ b ha
    · refine .inr ⟨fun ⟨_, _, hdata', _⟩ => hdata hdata', ?_⟩
      rw [(rxMove_of_rxStep hstep).buf_of_ne_data hdata]

/-- Settles O46: SYS.RESET writes reset values, RX.ABORT clears the flag alone, and of the bytes only one in
state SEQ writes, as the duplicate policy says. -/
theorem sequenceRegistersWrittenOnlyInSeq : Obligations.SequenceRegistersWrittenOnlyInSeq := by
  unfold Obligations.SequenceRegistersWrittenOnlyInSeq
  intro i s t h
  cases completes_of_exec h with
  | crc | txBuild | valParse =>
    exact ⟨fun hne => absurd rfl hne, fun hne => absurd rfl hne,
      fun hset hclear => absurd (hset.symm.trans hclear) (by decide)⟩
  | rxAbort => exact ⟨fun hne => absurd rfl hne, fun hne => absurd rfl hne, nofun⟩
  | sysReset => exact ⟨fun _ => .inl ⟨rfl, rfl⟩, fun _ => .inl ⟨rfl, rfl⟩, nofun⟩
  | @rxByte _ b r e hname hstep =>
    by_cases hseq : s.rx.state = .seq
    · obtain ⟨hs, hp, ha⟩ := rxStep_sequence_of_seq hstep hseq
      have hi := rxByte_name hname hseq
      refine ⟨fun _ => .inr ⟨b, hi, hseq, hs⟩, fun hne => .inr ?_, fun hset hclear => ⟨b, hi, hseq, ?_⟩⟩
      · cases hdup : s.cfg.dupSuppress with
        | true => exact ⟨b, hi, hseq, rfl, by simpa [hdup] using hp⟩
        | false => exact absurd (by simpa [hdup] using hp) hne
      · have hset' : r.abandon = true := hset
        simpa [ha, hclear] using hset'
    · obtain ⟨hs, hp, ha⟩ := (rxMove_of_rxStep hstep).sequence_of_ne_seq hseq
      exact ⟨fun hne => absurd hs hne, fun hne => absurd hp hne,
        fun hset hclear => absurd ((ha hset).symm.trans hclear) (by decide)⟩

/-- Settles O42: each row is the inversion of its sub-form, RX.ABORT and SYS.RESET are read off their next
states, and no other operation writes the receiver. -/
theorem transitionTableHolds : Obligations.TransitionTableHolds := by
  unfold Obligations.TransitionTableHolds
  refine ⟨fun s b hr => ?rows, exec_rxAbort, fun s => ⟨_, exec_sysReset s, rfl, rfl⟩,
    fun i s t h hne => ?noOther, fun st => ?codes⟩
  case rows =>
    obtain ⟨r, e, hstep⟩ := rxStep_total hr b
    refine ⟨_, e, exec_of_rxStep rfl (.inr rfl) hstep, rfl, ?_⟩
    unfold Rx.inRange at hr
    cases hst : s.rx.state with
    | sof =>
      rw [rxStep_sof b hst] at hstep
      obtain ⟨hb, rfl, rfl⟩ | ⟨hb, rfl, rfl⟩ := rxSof_cases hstep
      · exact ⟨fun _ => ⟨hst, rfl⟩, fun hb' => absurd hb' hb⟩
      · exact ⟨fun hb' => absurd hb hb', fun _ => ⟨rfl, rfl, ⟨rfl, rfl, rfl, rfl, rfl⟩, rfl, rfl⟩⟩
    | dlen =>
      rw [rxStep_dlen b hst] at hstep
      obtain ⟨ho, rfl, rfl⟩ | ⟨ho, hover, rfl, rfl⟩ | ⟨ho, hfits, rfl, rfl⟩ := rxDlen_cases hstep
      · exact ⟨fun _ => ⟨hst, rfl, rfl⟩, fun ho' => absurd ho (offset_ne_zero_of_eq_one ho'),
          fun ho' => absurd ho (offset_ne_zero_of_eq_one ho')⟩
      · exact ⟨fun ho' => absurd ho' ho, fun _ hfits => absurd hover (BitVec.not_lt.mpr hfits),
          fun _ _ => ⟨rfl, ⟨rfl, rfl, rfl, rfl, rfl⟩, rfl⟩⟩
      · exact ⟨fun ho' => absurd ho' ho, fun _ _ => ⟨rfl, rfl⟩,
          fun _ hover => absurd hover (BitVec.not_lt.mpr hfits)⟩
    | seq =>
      rw [rxStep_seq b hst] at hstep
      obtain ⟨rfl, rfl⟩ := rxSeq_cases hstep
      exact ⟨rfl, rfl⟩
    | crc8 =>
      rw [rxStep_crc8 b hst] at hstep
      obtain ⟨hb, rfl, rfl⟩ | ⟨hb, rfl, rfl⟩ := rxCrc8_cases hstep
      · exact ⟨fun _ => ⟨rfl, rfl⟩, fun hb' => absurd hb hb'⟩
      · exact ⟨fun hb' => absurd hb' hb, fun _ => ⟨rfl, ⟨rfl, rfl, rfl, rfl, rfl⟩, rfl⟩⟩
    | cmd =>
      rw [rxStep_cmd b hst] at hstep
      obtain ⟨rfl, ⟨ho, rfl⟩ | ⟨ho, hd, rfl⟩ | ⟨ho, hd, rfl⟩⟩ := rxCmd_cases hstep
      · exact ⟨fun _ => ⟨hst, rfl, rfl⟩, fun ho' => absurd ho (offset_ne_zero_of_eq_one ho'),
          fun ho' => absurd ho (offset_ne_zero_of_eq_one ho')⟩
      · exact ⟨fun ho' => absurd ho' ho, fun _ hd' => absurd hd hd', fun _ _ => ⟨rfl, rfl⟩⟩
      · exact ⟨fun ho' => absurd ho' ho, fun _ _ => ⟨rfl, rfl⟩, fun _ hd' => absurd hd' hd⟩
    | data =>
      rw [hst] at hr
      obtain ⟨hlt, -⟩ := hr
      rw [rxStep_data b hst] at hstep
      have hlast := offset_succ_eq_dlen_iff hlt
      obtain ⟨-, rfl, ⟨hl, rfl⟩ | ⟨hl, rfl⟩⟩ := rxData_cases hstep
      · exact ⟨fun hmore => absurd (hlast.mp hl) (Nat.ne_of_lt hmore), fun _ => ⟨rfl, rfl⟩⟩
      · exact ⟨fun _ => ⟨hst, toNat_offset_succ hlt, rfl⟩, fun hl' => absurd (hlast.mpr hl') hl⟩
    | crc16 =>
      rw [rxStep_crc16 b hst] at hstep
      obtain ⟨ho, rfl, rfl⟩ | ⟨ho, rfl, hend⟩ := rxCrc16_cases hstep
      · exact ⟨fun _ => ⟨hst, rfl, rfl⟩, fun ho' => absurd ho (offset_ne_zero_of_eq_one ho')⟩
      · exact ⟨fun ho' => absurd ho' ho, fun _ => ⟨rfl, ⟨rfl, rfl, rfl, rfl, rfl⟩, hend⟩⟩
  case noOther =>
    cases completes_of_exec h with
    | crc | txBuild | valParse => exact absurd rfl hne
    | rxByte hname hstep =>
      exact .inr (.inr ⟨_, hname.symm, exec_of_rxStep rfl (.inr rfl) hstep⟩)
    | rxAbort => exact .inl rfl
    | sysReset => exact .inr (.inl rfl)
  case codes => cases st <;> decide

end Sys2Proof.Machine
end

section
/-!
The invariant of the state (10_state.md section 9, with R24, R29 and R35): reset meets it, every byte keeps
each of its four clauses, and so does every operation and every step; what follows for the dispatched
payload (R35) and for faults (42_receiver.md R150).
-/

namespace Sys2Proof.Machine

/-! ## One byte keeps each clause -/

/-- A field not yet begun has no high byte. -/
@[simp] theorem hiByte_zero : hiByte 0#16 = 0#8 := by decide

section
variable {cfg : Config} {r r' : Rx} {b : Byte} {e : Event}

/-- Whatever dropped the frame, the receiver then hunts for SOF with its registers cleared. -/
theorem Rx.dropFrame_inRange (cfg : Config) (r : Rx) : r.dropFrame.inRange cfg := ⟨rfl, rfl, rfl, rfl, rfl⟩

/-- The ranges of 10_state.md R37. -/
theorem RxMove.inRange (h : RxMove cfg r b r' e) (hr : r.inRange cfg) : r'.inRange cfg := by
  cases h with
  | noise => exact hr
  | start => exact Or.inl rfl
  | dlenLow hst => simp [Rx.inRange, hst]
  | dlenOverflow => exact Rx.dropFrame_inRange cfg _
  | dlenHigh _ _ hfits => exact And.intro rfl hfits
  | seq hst =>
    simp only [Rx.inRange, hst] at hr
    simpa [Rx.inRange] using hr
  | crc8Match hst =>
    simp only [Rx.inRange, hst] at hr
    obtain ⟨ho, hfits⟩ := hr
    exact And.intro (.inl ho) hfits
  | crc8Mismatch => exact Rx.dropFrame_inRange cfg r
  | cmdLow hst =>
    simp only [Rx.inRange, hst] at hr
    obtain ⟨-, hfits⟩ := hr
    simpa [Rx.inRange, hst] using hfits
  | cmdEmpty hst =>
    simp only [Rx.inRange, hst] at hr
    obtain ⟨-, hfits⟩ := hr
    exact And.intro (.inl rfl) hfits
  | cmdPayload hst _ hpayload =>
    simp only [Rx.inRange, hst] at hr
    obtain ⟨-, hfits⟩ := hr
    have hpos : 0#16 < r.dlen := by bv_omega
    exact And.intro hpos hfits
  | dataLast hst =>
    simp only [Rx.inRange, hst] at hr
    obtain ⟨-, hfits⟩ := hr
    exact And.intro (.inl rfl) hfits
  | dataMore hst _ hmore =>
    simp only [Rx.inRange, hst] at hr
    obtain ⟨hlt, hfits⟩ := hr
    have hnext : r.offset + 1#16 < r.dlen := by bv_omega
    simpa [Rx.inRange, hst] using And.intro hnext hfits
  | crc16Low hst =>
    simp only [Rx.inRange, hst] at hr
    obtain ⟨-, hfits⟩ := hr
    simpa [Rx.inRange, hst] using hfits
  | frameEnd => exact Rx.dropFrame_inRange cfg r

/-- A cleared flag is in range in every state. -/
theorem Rx.flagInRange_of_clear (h : r.abandon = false) : r.flagInRange cfg :=
  fun hset => absurd (h.symm.trans hset) (by decide)

/-- In the states before CRC8 the flag is not set (10_state.md R29). -/
theorem Rx.flagInRange.clear (h : r.flagInRange cfg)
    (hst : r.state = .sof ∨ r.state = .dlen ∨ r.state = .seq) : r.abandon = false := by
  by_contra hset
  obtain ⟨-, hlate⟩ := h (Bool.eq_true_of_not_eq_false hset)
  obtain hst | hst | hst := hst <;> simp [hst] at hlate

/-- The flag clause of 10_state.md R29. -/
theorem RxMove.flagInRange (h : RxMove cfg r b r' e) (hr : r.flagInRange cfg) : r'.flagInRange cfg := by
  cases h with
  | noise => exact hr
  | start | dlenOverflow | crc8Mismatch | frameEnd => exact Rx.flagInRange_of_clear rfl
  | dlenLow hst | dlenHigh hst => exact Rx.flagInRange_of_clear (hr.clear (.inr (.inl hst)))
  | seq hst =>
    intro hset
    have hclear : r.abandon = false := hr.clear (.inr (.inr hst))
    have hdup : (r.abandon || (cfg.dupSuppress && b == r.prevSeq)) = true :=
      (Rx.markDuplicate_abandon cfg { (r.feedBoth b) with seq := b } b).symm.trans hset
    rw [hclear, Bool.false_or, Bool.and_eq_true] at hdup
    obtain ⟨hsuppress, -⟩ := hdup
    exact ⟨hsuppress, .inl rfl⟩
  | crc8Match =>
    intro hset
    obtain ⟨hdup, -⟩ := hr hset
    exact ⟨hdup, .inr (.inl rfl)⟩
  | cmdPayload =>
    intro hset
    obtain ⟨hdup, -⟩ := hr hset
    exact ⟨hdup, .inr (.inr (.inl rfl))⟩
  | cmdEmpty | dataLast =>
    intro hset
    obtain ⟨hdup, -⟩ := hr hset
    exact ⟨hdup, .inr (.inr (.inr rfl))⟩
  | cmdLow | dataMore | crc16Low => exact hr

/-- The fields in progress (10_state.md R24). -/
theorem RxMove.fieldsInProgress (h : RxMove cfg r b r' e) (hr : r.fieldsInProgress) : r'.fieldsInProgress := by
  cases h with
  | noise => exact hr
  | start => exact And.intro (fun _ => rfl) ⟨hiByte_zero, rfl, rfl⟩
  | dlenLow hst =>
    simp only [Rx.fieldsInProgress, hst] at hr
    obtain ⟨-, -, hcmd, hcrc⟩ := hr
    simp [Rx.fieldsInProgress, hst, hcmd, hcrc]
  | dlenHigh hst =>
    simp only [Rx.fieldsInProgress, hst] at hr
    obtain ⟨-, -, hcmd, hcrc⟩ := hr
    exact And.intro hcmd hcrc
  | seq hst =>
    simp only [Rx.fieldsInProgress, hst] at hr
    simpa [Rx.fieldsInProgress] using hr
  | crc8Match hst =>
    simp only [Rx.fieldsInProgress, hst] at hr
    obtain ⟨hcmd, hcrc⟩ := hr
    simp [Rx.fieldsInProgress, hcmd, hcrc]
  | cmdLow hst =>
    simp only [Rx.fieldsInProgress, hst] at hr
    obtain ⟨-, -, hcrc⟩ := hr
    simp [Rx.fieldsInProgress, hst, hcrc]
  | cmdEmpty hst =>
    simp only [Rx.fieldsInProgress, hst] at hr
    obtain ⟨-, -, hcrc⟩ := hr
    simp [Rx.fieldsInProgress, hcrc]
  | cmdPayload hst =>
    simp only [Rx.fieldsInProgress, hst] at hr
    obtain ⟨-, -, hcrc⟩ := hr
    exact hcrc
  | dataLast hst =>
    simp only [Rx.fieldsInProgress, hst] at hr
    simp [Rx.fieldsInProgress, hr]
  | dataMore hst =>
    simp only [Rx.fieldsInProgress, hst] at hr
    simpa [Rx.fieldsInProgress, hst] using hr
  | crc16Low hst => simp [Rx.fieldsInProgress, hst]
  | dlenOverflow | crc8Mismatch | frameEnd => trivial

/-! ### The buffer clause (10_state.md R34, R35) -/

/-- One more byte written at the end of what has been written. -/
theorem Memory.written_write {m : Memory} {n : Nat} (h : m.written n) (v : Byte) :
    (Memory.write m n v).written (n + 1) := by
  intro i hi
  rw [Memory.read_write]
  split
  · rfl
  · exact h i (by omega)

/-- The part of the buffer clause that does not look at `rx_state`: canonical form, and only indices that
exist (20_memory.md R56). -/
def Memory.fits (cfg : Config) (m : Memory) : Prop := m.wf ∧ ∀ c ∈ m, c.1 < cfg.maxDlen.toNat

theorem Memory.fits_write {m : Memory} {i : Nat} (h : m.fits cfg) (hi : i < cfg.maxDlen.toNat) (v : Byte) :
    (Memory.write m i v).fits cfg := by
  obtain ⟨hwf, hexist⟩ := h
  refine ⟨Memory.write_wf hwf i v, fun c hc => ?_⟩
  obtain rfl | hc := Memory.mem_write hc
  · exact hi
  · exact hexist c hc

/-- Where the state promises nothing about written bytes, the buffer clause is about the buffer alone. -/
theorem Rx.bufferInRange_of_fits (h : r.buf.fits cfg) (hdata : r.state ≠ .data) (hcrc : r.state ≠ .crc16) :
    r.bufferInRange cfg := by
  obtain ⟨hwf, hexist⟩ := h
  refine ⟨hwf, hexist, ?_⟩
  split
  · contradiction
  · contradiction
  all_goals trivial

theorem Rx.bufferInRange.fits (h : r.bufferInRange cfg) : r.buf.fits cfg := by
  obtain ⟨hwf, hexist, -⟩ := h
  exact ⟨hwf, hexist⟩

/-- In state DATA the bytes taken so far have been written. -/
theorem Rx.bufferInRange.written_of_data (h : r.bufferInRange cfg) (hst : r.state = .data) :
    r.buf.written r.offset.toNat := by
  obtain ⟨-, -, h⟩ := h
  rwa [hst] at h

/-- In state CRC16 the whole payload has been written. -/
theorem Rx.bufferInRange.written_of_crc16 (h : r.bufferInRange cfg) (hst : r.state = .crc16) :
    r.buf.written r.dlen.toNat := by
  obtain ⟨-, -, h⟩ := h
  rwa [hst] at h

/-- The buffer clause; the index of a store is in range because RX.BYTE did not fault, and the ranges of
10_state.md R37 keep the offset from wrapping. -/
theorem RxMove.bufferInRange (h : RxMove cfg r b r' e) (hrange : r.inRange cfg) (hr : r.bufferInRange cfg) :
    r'.bufferInRange cfg := by
  have hfits := hr.fits
  cases h with
  | noise => exact hr
  | start => exact Rx.bufferInRange_of_fits hfits (by simp) (by simp)
  | dlenOverflow | crc8Mismatch | frameEnd => exact Rx.bufferInRange_of_fits hfits (by simp) (by simp)
  | dlenHigh | crc8Match => exact Rx.bufferInRange_of_fits hfits (by simp) (by simp)
  | dlenLow hst | cmdLow hst => exact Rx.bufferInRange_of_fits hfits (by simp [hst]) (by simp [hst])
  | seq => exact Rx.bufferInRange_of_fits (by simpa using hfits) (by simp) (by simp)
  | cmdEmpty _ _ hempty =>
    obtain ⟨hwf, hexist⟩ := hfits
    refine ⟨hwf, hexist, fun i hi => ?_⟩
    simp [hempty] at hi
  | cmdPayload =>
    obtain ⟨hwf, hexist⟩ := hfits
    exact ⟨hwf, hexist, fun i hi => absurd hi (Nat.not_lt_zero i)⟩
  | dataLast hst hexists hlast =>
    have hwritten := Memory.written_write (hr.written_of_data hst) b
    simp only [Rx.inRange, hst] at hrange
    obtain ⟨hlt, -⟩ := hrange
    rw [(offset_succ_eq_dlen_iff hlt).mp hlast] at hwritten
    obtain ⟨hwf, hexist⟩ := Memory.fits_write hfits (BitVec.lt_def.mp hexists) b
    exact ⟨hwf, hexist, hwritten⟩
  | dataMore hst hexists hmore =>
    have hwritten := Memory.written_write (hr.written_of_data hst) b
    simp only [Rx.inRange, hst] at hrange
    obtain ⟨hlt, -⟩ := hrange
    rw [← toNat_offset_succ hlt] at hwritten
    obtain ⟨hwf, hexist⟩ := Memory.fits_write hfits (BitVec.lt_def.mp hexists) b
    exact ⟨hwf, hexist, by simpa [hst] using hwritten⟩
  | crc16Low hst =>
    obtain ⟨hwf, hexist⟩ := hfits
    exact ⟨hwf, hexist, by simpa [hst] using hr.written_of_crc16 hst⟩

end

/-! ## Reset -/

theorem Rx.resetRegs_inRange (cfg : Config) (r : Rx) : (r.resetRegs cfg).inRange cfg := ⟨rfl, rfl, rfl, rfl, rfl⟩

/-- Right after reset every clause holds of the reset registers and the empty buffer. -/
theorem State.resetWith_inv (cfg : Config) : (State.resetWith cfg).Inv where
  inRange := ⟨rfl, rfl, rfl, rfl, rfl⟩
  flag    := Rx.flagInRange_of_clear rfl
  fields  := trivial
  buffer  := ⟨Memory.nil_wf, nofun, trivial⟩

/-- Settles O53. -/
theorem resetMeetsInvariant : Obligations.ResetMeetsInvariant :=
  ⟨State.resetWith_inv Config.default, State.resetWith_inv⟩

/-- Settles O40: the fields of `State.resetWith` are evaluated. -/
theorem resetStateValues : Obligations.ResetStateValues :=
  ⟨fun _ => ⟨rfl, rfl, rfl, rfl, rfl, rfl, rfl, rfl, rfl, rfl, rfl, rfl, rfl, rfl⟩, rfl, rfl, rfl⟩

/-! ## Every operation, every step -/

/-- Every operation keeps the ranges of 10_state.md R37. -/
theorem exec_inRange {i : Instr} {s t : State} (hs : s.rx.inRange s.cfg) (h : exec i s = .next t) :
    t.rx.inRange t.cfg := by
  cases completes_of_exec h with
  | crc | txBuild | valParse => exact hs
  | rxByte hname hstep => exact (rxMove_of_rxStep hstep).inRange hs
  | rxAbort => exact Rx.dropFrame_inRange s.cfg s.rx
  | sysReset => exact Rx.resetRegs_inRange s.cfg s.rx

/-- The invariant looks at `CFG` and at the receiver only. -/
theorem State.Inv.of_eq {s t : State} (h : s.Inv) (hcfg : t.cfg = s.cfg) (hrx : t.rx = s.rx) : t.Inv where
  inRange := by rw [hcfg, hrx]; exact h.inRange
  flag    := by rw [hcfg, hrx]; exact h.flag
  fields  := by rw [hrx]; exact h.fields
  buffer  := by rw [hcfg, hrx]; exact h.buffer

/-- Every operation keeps the invariant. -/
theorem exec_inv {i : Instr} {s t : State} (hs : s.Inv) (h : exec i s = .next t) : t.Inv := by
  have hrange := exec_inRange hs.inRange h
  have hfits := hs.buffer.fits
  cases completes_of_exec h with
  | crc | txBuild | valParse => exact hs.of_eq rfl rfl
  | rxByte hname hstep =>
    have hmove := rxMove_of_rxStep hstep
    exact ⟨hrange, hmove.flagInRange hs.flag, hmove.fieldsInProgress hs.fields,
      hmove.bufferInRange hs.inRange hs.buffer⟩
  | rxAbort | sysReset =>
    exact ⟨hrange, Rx.flagInRange_of_clear rfl, trivial, Rx.bufferInRange_of_fits hfits nofun nofun⟩

/-- What one step can do: nothing, or the oldest issued operation on the state without it. -/
theorem step_next {s t : State} (h : step s = .next t) :
    t = s ∨ ∃ (i : Instr) (rest : List Issue), exec i { s with issue := rest } = .next t := by
  cases hissue : s.issue with
  | nil =>
    rw [step_idle hissue] at h
    cases h
    exact .inl rfl
  | cons o rest =>
    cases hd : decode o with
    | error e => rw [step_undecodable hissue hd] at h; cases h
    | ok i => exact .inr ⟨i, rest, (step_of_decode hissue hd).symm.trans h⟩

/-- Settles O51: an idle step changes nothing, any other is an operation. -/
theorem stepKeepsInvariant : Obligations.StepKeepsInvariant := by
  unfold Obligations.StepKeepsInvariant
  intro s t hs h
  obtain rfl | ⟨i, rest, hexec⟩ := step_next h
  · exact hs
  · exact exec_inv (s := { s with issue := rest }) (hs.of_eq rfl rfl) hexec

/-- Settles O52. -/
theorem everyOperationKeepsReceiverRanges : Obligations.EveryOperationKeepsReceiverRanges :=
  fun _ _ _ => exec_inRange

/-! ## No fault -/

theorem step_inRange {s t : State} (hs : s.rx.inRange s.cfg) (h : step s = .next t) : t.rx.inRange t.cfg := by
  obtain rfl | ⟨i, rest, hexec⟩ := step_next h
  · exact hs
  · exact exec_inRange (s := { s with issue := rest }) hs hexec

/-- In the ranges of 10_state.md R37 no operation faults. -/
theorem exec_ne_fault {s : State} (hs : s.rx.inRange s.cfg) (i : Instr) (f : Fault) : exec i s ≠ .fault f := by
  intro h
  obtain ⟨b, herror⟩ := rxStep_of_exec_fault h
  obtain ⟨r, e, hok⟩ := rxStep_total hs b
  rw [hok] at herror
  cases herror

theorem step_ne_fault {s : State} (hs : s.rx.inRange s.cfg) (f : Fault) : step s ≠ .fault f := by
  cases hissue : s.issue with
  | nil => rw [step_idle hissue]; nofun
  | cons o rest =>
    cases hd : decode o with
    | error e => rw [step_undecodable hissue hd]; nofun
    | ok i => rw [step_of_decode hissue hd]; exact exec_ne_fault (s := { s with issue := rest }) hs i f

/-- Settles O54: by induction on the number of steps, the ranges being kept by each. -/
theorem noRunFaults : Obligations.NoRunFaults := by
  unfold Obligations.NoRunFaults FaultFree
  intro s hs k
  induction k generalizing s with
  | zero => nofun
  | succ k ih =>
    intro f
    rw [run_succ]
    cases hstep : step s with
    | next t => exact ih t (step_inRange hs hstep) f
    | fault g => exact absurd hstep (step_ne_fault hs g)
    | refused c => nofun

/-! ## The dispatched payload -/

/-- Settles O50: the dispatch is a frame end's, in state CRC16, where the invariant has the whole payload
written. -/
theorem dispatchReadsOnlyWrittenBytes : Obligations.DispatchReadsOnlyWrittenBytes := by
  unfold Obligations.DispatchReadsOnlyWrittenBytes
  intro s t b cmd p hs h hout
  obtain ⟨r, hmove, -⟩ := rxMove_of_exec_event h hout
  cases hmove with
  | frameEnd hst _ hend =>
    obtain ⟨-, he⟩ | ⟨-, -, he⟩ | ⟨-, -, -, he⟩ | ⟨-, -, -, -, he⟩ := frameEndEvent_cases hend
    · cases he
    · cases he
    · cases he
    · cases he
      refine ⟨rfl, Memory.firstBytes_length _ _, fun k hk => ?_⟩
      rw [Memory.firstBytes_length] at hk
      obtain ⟨v, hv⟩ := Option.isSome_iff_exists.mp (hs.buffer.written_of_crc16 hst k hk)
      exact ⟨v, hv, by rw [Memory.firstBytes_getElem? _ hk, Memory.byte_of_read hv]⟩

end Sys2Proof.Machine
end

section
/-!
Properties of the CRC functions (40_crc.md): the one-shot and the incremental form (section 3), the
least-significant-bit-first and the table-driven form (R110), the per-byte update as a bijection, and the
residue (section 5). What holds at every width is proved at every width.
-/

namespace Sys2Proof.Machine

/-! ## The incremental form (40_crc.md section 3) -/

/-- Settles O16: the two programs run operation by operation. -/
theorem incrementalCrcEqualsOneShot : Obligations.IncrementalCrcEqualsOneShot := by
  unfold Obligations.IncrementalCrcEqualsOneShot
  intro bs s
  constructor
  · simp only [crc8Over, List.cons_append, runProgram_crc8Init, runProgram_crc8Feeds, runProgram_crc8Value,
      runProgram_nil, crc8_eq]
    simp [init8, List.replicate_succ]
  · simp only [crc16Over, List.cons_append, runProgram_crc16Init, runProgram_crc16Feeds,
      runProgram_crc16Value, runProgram_nil, crc16_eq]
    simp [init16, List.replicate_succ]

/-! ## Bit reversal against shifts -/

section
variable {w : Nat}

/-- The top bit of the one form is the bottom bit of the other. -/
theorem getLsbD_zero_reflect (a : BitVec w) : (reflect a).getLsbD 0 = a.msb := getLsbD_reflect a 0

/-- A shift to the left, seen reversed, is a shift to the right. -/
theorem reflect_shiftLeft (a : BitVec w) (k : Nat) : reflect (a <<< k) = reflect a >>> k := by
  refine BitVec.eq_of_getLsbD_eq fun i hi => ?_
  simp only [getLsbD_reflect, BitVec.getLsbD_ushiftRight, BitVec.getMsbD_shiftLeft, Nat.add_comm]

/-- The reversed byte in the top of the accumulator, seen reversed, is the byte at the bottom. -/
theorem reflect_byteAtTop (hw : 8 ≤ w) (b : Byte) :
    reflect ((reflect b).setWidth w <<< (w - 8)) = b.setWidth w := by
  refine BitVec.eq_of_getLsbD_eq fun i hi => ?_
  have hplace : w - 8 + i + 8 - w = i := by omega
  rw [reflect_shiftLeft, BitVec.getLsbD_ushiftRight, getLsbD_reflect, BitVec.getMsbD_setWidth, hplace,
    BitVec.getLsbD_setWidth, reflect, BitVec.getMsbD_reverse]
  simp [hi]

/-! ## The least-significant-bit-first form (R110) -/

/-- One step of the one form is one step of the other, seen reversed. -/
theorem reflect_crcShift (poly a : BitVec w) :
    reflect (crcShift poly a) = lsbShift (reflect poly) (reflect a) := by
  unfold crcShift lsbShift
  rw [getLsbD_zero_reflect, ← reflect_shiftLeft]
  split
  · exact reflect_xor _ _
  · rfl

theorem reflect_crcShifts (poly : BitVec w) (k : Nat) (a : BitVec w) :
    reflect (crcShifts poly k a) = lsbShifts (reflect poly) k (reflect a) := by
  induction k generalizing a with
  | zero => rfl
  | succ k ih => rw [crcShifts, ih, reflect_crcShift]; rfl

/-- The per-byte update of the two forms, at every width that has room for a byte. -/
theorem reflect_crcFeed (hw : 8 ≤ w) (poly acc : BitVec w) (b : Byte) :
    reflect (crcFeed poly acc b) = lsbFeed (reflect poly) (reflect acc) b := by
  rw [crcFeed, reflect_crcShifts, reflect_xor, reflect_byteAtTop hw]
  rfl

theorem reflect_foldl_crcFeed (hw : 8 ≤ w) (poly acc : BitVec w) (bs : List Byte) :
    reflect (bs.foldl (crcFeed poly) acc) = bs.foldl (lsbFeed (reflect poly)) (reflect acc) := by
  induction bs generalizing acc with
  | nil => rfl
  | cons b bs ih => rw [List.foldl_cons, ih, reflect_crcFeed hw]; rfl

/-! ## Steps on an accumulator whose tested bits are all zero -/

theorem lsbShifts_xor (poly : BitVec w) (k : Nat) (a c : BitVec w) :
    lsbShifts poly k (a ^^^ c) = lsbShifts poly k a ^^^ lsbShifts poly k c := by
  have hreflect (x : BitVec w) : lsbShifts poly k x = reflect (crcShifts (reflect poly) k (reflect x)) := by
    rw [reflect_crcShifts, reflect_reflect, reflect_reflect]
  simp only [hreflect, reflect_xor, crcShifts_xor]

/-- While the bits that come to the bottom are zero, the polynomial is not used. -/
theorem lsbShifts_of_bottom_zero (poly : BitVec w) (k : Nat) (a : BitVec w)
    (h : ∀ i, i < k → a.getLsbD i = false) : lsbShifts poly k a = a >>> k := by
  induction k generalizing a with
  | zero => simp [lsbShifts]
  | succ k ih =>
    have hstep : lsbShift poly a = a >>> 1 := by simp only [lsbShift, h 0 (by omega)]; rfl
    have hrest (i : Nat) (hi : i < k) : (a >>> 1).getLsbD i = false := by
      rw [BitVec.getLsbD_ushiftRight]
      exact h _ (by omega)
    rw [lsbShifts, hstep, ih _ hrest, ← BitVec.shiftRight_add, Nat.add_comm]

/-! ## The update as a bijection -/

/-- With the polynomial's constant term set, a step with the top bit set leaves the bottom bit set; a step
without it loses no set bit. -/
theorem eq_zero_of_crcShift_eq_zero {poly d : BitVec w} (hpoly : poly.getLsbD 0 = true)
    (hd : crcShift poly d = 0#w) : d = 0#w := by
  cases hmsb : d.msb with
  | true =>
    have hbottom : (crcShift poly d).getLsbD 0 = true := by simp [crcShift, hmsb, hpoly]
    rw [hd] at hbottom
    simp at hbottom
  | false =>
    have hshift : d <<< 1 = 0#w := by simpa [crcShift, hmsb] using hd
    refine BitVec.eq_of_getMsbD_eq fun i _ => ?_
    cases i with
    | zero => rwa [BitVec.getMsbD_zero]
    | succ i => simpa [BitVec.getMsbD_shiftLeft] using congrArg (BitVec.getMsbD · i) hshift

/-- A polynomial with its constant term set makes each step injective, because a step respects XOR. -/
theorem crcShift_injective {poly : BitVec w} (hpoly : poly.getLsbD 0 = true) :
    Function.Injective (crcShift poly) := by
  intro a c h
  have hd : crcShift poly (a ^^^ c) = 0#w := by rw [crcShift_xor, h, BitVec.xor_self]
  exact BitVec.xor_eq_zero_iff.mp (eq_zero_of_crcShift_eq_zero hpoly hd)

theorem crcShifts_injective {poly : BitVec w} (hpoly : poly.getLsbD 0 = true) (k : Nat) :
    Function.Injective (crcShifts poly k) := by
  induction k with
  | zero => exact fun _ _ h => h
  | succ k ih => exact ih.comp (crcShift_injective hpoly)

theorem crcFeed_bijective {poly : BitVec w} (hpoly : poly.getLsbD 0 = true) (b : Byte) :
    Function.Bijective fun acc : BitVec w => crcFeed poly acc b :=
  Finite.injective_iff_bijective.mp fun _ _ h => (BitVec.xor_left_inj _).mp (crcShifts_injective hpoly 8 h)

/-- Two bytes in the top of an accumulator are one where they leave the same there. -/
theorem crcFeed_injective_byte {poly : BitVec w} (hpoly : poly.getLsbD 0 = true) (hw : 8 ≤ w) (acc : BitVec w) :
    Function.Injective (crcFeed poly acc) := by
  intro b c h
  have htop := (BitVec.xor_right_inj _).mp (crcShifts_injective hpoly 8 h)
  have hbottom := congrArg reflect htop
  rw [reflect_byteAtTop hw, reflect_byteAtTop hw] at hbottom
  simpa [BitVec.setWidth_setWidth_of_le _ hw] using congrArg (BitVec.setWidth 8) hbottom

end

/-! ## At widths 8 and 16 -/

theorem feed16_injective (b : Byte) : Function.Injective fun acc : Half => feed16 acc b :=
  (crcFeed_bijective (by decide) b).injective

theorem feed16_injective_byte (acc : Half) : Function.Injective (feed16 acc) :=
  crcFeed_injective_byte (by decide) (by decide) acc

/-- Settles O20: each step is injective, because both polynomials have their constant term, and the
accumulators are finitely many. -/
theorem feedIsBijective : Obligations.FeedIsBijective :=
  ⟨crcFeed_bijective (by decide), crcFeed_bijective (by decide),
    crcFeed_injective_byte (by decide) (le_refl 8), feed16_injective_byte⟩

/-- CRC-8 in the least-significant-bit-first form: the seed is its own reversal. -/
theorem crc8Lsb_eq (bs : List Byte) : crc8Lsb bs = crc8 bs := by
  have hseed : reflect init8 = init8 := by decide
  rw [crc8_eq, value8_eq_reflect]
  exact (hseed ▸ reflect_foldl_crcFeed (le_refl 8) poly8 init8 bs).symm

theorem crc16Lsb_eq (bs : List Byte) : crc16Lsb bs = crc16 bs := by
  have hseed : reflect init16 = init16 := by decide
  rw [crc16_eq, value16_eq_reflect]
  exact (hseed ▸ reflect_foldl_crcFeed (by decide) poly16 init16 bs).symm

/-- Settles O18: the step, the eight steps, the byte's update and the sequence, each seen reversed. -/
theorem lsbFirstFormAgrees : Obligations.LsbFirstFormAgrees :=
  ⟨by decide, by decide, fun bs => ⟨crc8Lsb_eq bs, crc16Lsb_eq bs⟩,
    reflect_crcFeed (le_refl 8) poly8, reflect_crcFeed (by decide) poly16⟩

/-! ## The table-driven form (R110) -/

theorem lsbFeed_eq_table8 (r b : Byte) : lsbFeed polyR8 r b = table8 (r ^^^ b) := by
  rw [lsbFeed, table8, BitVec.setWidth_eq]

/-- Eight steps move the upper byte down untouched and look the lower one up. -/
theorem lsbFeed_eq_table16 (r : Half) (b : Byte) :
    lsbFeed polyR16 r b = (r >>> 8) ^^^ table16 (loByte r ^^^ b) := by
  have hsplit : r ^^^ b.setWidth 16 = (r ^^^ (loByte r).setWidth 16) ^^^ (loByte r ^^^ b).setWidth 16 := by
    rw [BitVec.setWidth_xor, BitVec.xor_assoc, ← BitVec.xor_assoc ((loByte r).setWidth 16), BitVec.xor_self,
      BitVec.zero_xor]
  have hlow (i : Nat) (hi : i < 8) : (r ^^^ (loByte r).setWidth 16).getLsbD i = false := by
    have hi' : i < 16 := by omega
    simp [loByte, hi, hi']
  have hhigh : (r ^^^ (loByte r).setWidth 16) >>> 8 = r >>> 8 := by
    refine BitVec.eq_of_getLsbD_eq fun i _ => ?_
    simp [loByte]
  rw [lsbFeed, hsplit, lsbShifts_xor, lsbShifts_of_bottom_zero _ _ _ hlow, hhigh, table16]

/-- Settles O19: the two updates, and the sampled entries evaluated. -/
theorem tableDrivenFormAgrees : Obligations.TableDrivenFormAgrees :=
  ⟨lsbFeed_eq_table8, lsbFeed_eq_table16, by decide, by decide, by decide, by decide, by decide, by decide⟩

/-! ## The residue (40_crc.md section 5) -/

/-- A byte equal to the low byte of the accumulator moves the upper byte down and looks up entry 0. -/
theorem lsbFeed_loByte (r : Half) : lsbFeed polyR16 r (loByte r) = r >>> 8 := by
  have hentry : table16 0#8 = 0#16 := by decide
  rw [lsbFeed_eq_table16, BitVec.xor_self, hentry, BitVec.xor_zero]

/-- Settles O21: in the least-significant-bit-first form the CRC is the accumulator, so its own bytes, low
byte first, cancel it. -/
theorem residueIsZero : Obligations.ResidueIsZero := by
  unfold Obligations.ResidueIsZero
  intro m
  constructor
  · have hentry : table8 0#8 = 0#8 := by decide
    rw [← crc8Lsb_eq m, ← crc8Lsb_eq, crc8Lsb, List.foldl_append]
    exact (lsbFeed_eq_table8 _ _).trans (by rw [crc8Lsb, BitVec.xor_self, hentry])
  · rw [← crc16Lsb_eq m, ← crc16Lsb_eq, crc16Lsb, List.foldl_append]
    generalize hr : crc16Lsb m = r
    have hhi : hiByte r = loByte (r >>> 8) := by
      refine BitVec.eq_of_getLsbD_eq fun i hi => ?_
      simp [hiByte, loByte, hi]
    have hout : r >>> 8 >>> 8 = 0#16 := by
      rw [← BitVec.shiftRight_add]
      exact BitVec.ushiftRight_eq_zero (le_refl 16)
    rw [crc16Lsb] at hr
    rw [hr, List.foldl_cons, List.foldl_cons, List.foldl_nil, lsbFeed_loByte, hhi, lsbFeed_loByte, hout]

end Sys2Proof.Machine
end

section
/-!
Properties of the frame codec (41_frame_codec.md): a built frame is valid and a valid frame is a built one,
the round trip through VAL.PARSE, a frame changed in one byte (section 2), and the SEQ values of
consecutive builds (section 1), for which a program is taken apart operation by operation.
-/

namespace Sys2Proof.Machine

/-! ## Bytes by their place -/

theorem byteAt_of_getElem? {bs : List Byte} {i : Nat} {b : Byte} (h : bs[i]? = some b) : byteAt bs i = b := by
  rw [byteAt, List.getD_eq_getElem?_getD, h, Option.getD_some]

theorem byteAt_set_same {bs : List Byte} {k : Nat} (hk : k < bs.length) (b : Byte) : byteAt (bs.set k b) k = b :=
  byteAt_of_getElem? (List.getElem?_set_self hk)

theorem byteAt_set_ne {bs : List Byte} {i k : Nat} (h : k ≠ i) (b : Byte) :
    byteAt (bs.set k b) i = byteAt bs i := by
  rw [byteAt, byteAt, List.getD_eq_getElem?_getD, List.getElem?_set_ne h, List.getD_eq_getElem?_getD]

theorem byteAt_take {bs : List Byte} {k n : Nat} (h : k < n) : byteAt (bs.take n) k = byteAt bs k := by
  rw [byteAt, byteAt, List.getD_eq_getElem?_getD, List.getElem?_take_of_lt h, List.getD_eq_getElem?_getD]

/-- The two bytes of a 16-bit field can be read back. -/
theorem le16_inj {lo hi lo' hi' : Byte} (h : le16 lo hi = le16 lo' hi') : lo = lo' ∧ hi = hi' := by
  have hlo := congrArg loByte h
  have hhi := congrArg hiByte h
  rw [loByte_le16, loByte_le16] at hlo
  rw [hiByte_le16, hiByte_le16] at hhi
  exact ⟨hlo, hhi⟩

/-! ## What TX.BUILD returns is a valid frame (30_encoding.md R75) -/

/-- A payload that TX.BUILD takes has a length that the DLEN field holds. -/
theorem toNat_ofNat_payloadLength {p : List Byte} (hp : p.length ≤ maxPayload) :
    (BitVec.ofNat 16 p.length).toNat = p.length := by
  rw [BitVec.toNat_ofNat]
  exact Nat.mod_eq_of_lt (Nat.lt_succ_of_le hp)

/-- What TX.BUILD was, if it completed. -/
theorem exec_txBuild_next {s t : State} {cmd : Half} {p : List Byte} (h : exec (.txBuild cmd p) s = .next t) :
    p.length ≤ maxPayload ∧ t = { s with
      txSeq := s.txSeq + 1#8, outputs := s.outputs ++ [.frame (buildFrame s.cfg.sof s.txSeq cmd p)] } := by
  by_cases hp : p.length ≤ maxPayload
  · rw [exec_txBuild hp] at h
    cases h
    exact ⟨hp, rfl⟩
  · rw [exec_txBuild_tooLong (Nat.not_le.mp hp)] at h
    cases h

section
variable (sof seq : Byte) (cmd : Half) (p : List Byte)

@[simp] theorem byteAt_buildFrame_seq : byteAt (buildFrame sof seq cmd p) 3 = seq := rfl

@[simp] theorem frameCmd_buildFrame : frameCmd (buildFrame sof seq cmd p) = cmd := le16_loByte_hiByte cmd

@[simp] theorem framePayload_buildFrame : framePayload (buildFrame sof seq cmd p) p.length = p :=
  List.take_left' rfl

end

theorem validFrame_buildFrame (sof seq : Byte) (cmd : Half) {p : List Byte} (hp : p.length ≤ maxPayload) :
    validFrame (buildFrame sof seq cmd p) (BitVec.ofNat 16 p.length) sof := by
  have hn := toNat_ofNat_payloadLength hp
  refine ⟨by rw [buildFrame_length, hn], rfl, le16_loByte_hiByte _, rfl, ?_⟩
  rw [hn, byteAt_of_getElem? (getElem?_buildFrame_crc16Low sof seq cmd p),
    byteAt_of_getElem? (getElem?_buildFrame_crc16High sof seq cmd p), le16_loByte_hiByte, slice_zero,
    take_buildFrame_body]

/-- Settles O24: the frame is `buildFrame`'s. -/
theorem builtFrameIsValid : Obligations.BuiltFrameIsValid := by
  unfold Obligations.BuiltFrameIsValid
  intro s t cmd p h
  obtain ⟨hp, rfl⟩ := exec_txBuild_next h
  exact ⟨buildFrame s.cfg.sof s.txSeq cmd p, rfl, validFrame_buildFrame _ _ _ hp, frameCmd_buildFrame _ _ _ _,
    framePayload_buildFrame _ _ _ _, byteAt_buildFrame_seq _ _ _ _⟩

/-- Settles O28: the frame is valid, so VAL.PARSE returns its two fields, which are what it was built from. -/
theorem parseInvertsBuild : Obligations.ParseInvertsBuild := by
  unfold Obligations.ParseInvertsBuild
  intro s t cmd p h
  obtain ⟨hp, ht⟩ := exec_txBuild_next h
  refine ⟨buildFrame s.cfg.sof s.txSeq cmd p, by rw [ht], ?_⟩
  have hvalid : validFrame (buildFrame s.cfg.sof s.txSeq cmd p) (BitVec.ofNat 16 p.length) t.cfg.sof := by
    rw [exec_cfg h]
    exact validFrame_buildFrame _ _ _ hp
  rw [exec_valParse_of_valid hvalid, toNat_ofNat_payloadLength hp, frameCmd_buildFrame, framePayload_buildFrame]

/-! ## Every valid frame is one that TX.BUILD returns -/

/-- A sequence of a frame's length, byte by byte: seven bytes, the payload, two bytes. -/
theorem exists_frame_bytes {bs : List Byte} {n : Nat} (h : bs.length = n + 9) :
    ∃ (b0 b1 b2 b3 b4 b5 b6 : Byte) (p : List Byte) (lo hi : Byte), p.length = n ∧
      bs = [b0, b1, b2, b3, b4, b5, b6] ++ p ++ [lo, hi] := by
  have hhead : (bs.take 7).length = 7 := by rw [List.length_take, h]; omega
  have htail : ((bs.drop 7).drop n).length = 2 := by rw [List.length_drop, List.length_drop, h]; omega
  obtain ⟨b0, b1, b2, b3, b4, b5, b6, hhead⟩ : ∃ b0 b1 b2 b3 b4 b5 b6, bs.take 7 = [b0, b1, b2, b3, b4, b5, b6] := by
    match bs.take 7, hhead with
    | [b0, b1, b2, b3, b4, b5, b6], _ => exact ⟨b0, b1, b2, b3, b4, b5, b6, rfl⟩
  obtain ⟨lo, hi, htail⟩ := List.length_eq_two.mp htail
  refine ⟨b0, b1, b2, b3, b4, b5, b6, (bs.drop 7).take n, lo, hi, ?_, ?_⟩
  · rw [List.length_take, List.length_drop, h]
    omega
  · rw [← hhead, ← htail, List.append_assoc, List.take_append_drop, List.take_append_drop]

/-- The two bytes that stand behind a sequence. -/
theorem byteAt_append_pair {xs : List Byte} {k : Nat} (h : xs.length = k) (lo hi : Byte) :
    byteAt (xs ++ [lo, hi]) k = lo ∧ byteAt (xs ++ [lo, hi]) (k + 1) = hi := by
  subst h
  constructor
  · exact byteAt_of_getElem? (by simp)
  · exact byteAt_of_getElem? (by simp)

theorem eq_buildFrame_of_validFrame {bs : List Byte} {n : Half} {sof : Byte} (h : validFrame bs n sof) :
    ∃ (seq : Byte) (cmd : Half) (p : List Byte), p.length = n.toNat ∧ bs = buildFrame sof seq cmd p := by
  obtain ⟨hlen, hsof, hdlen, hcrc8, hcrc16⟩ := h
  obtain ⟨b0, b1, b2, b3, b4, b5, b6, p, lo, hi, hp, rfl⟩ := exists_frame_bytes hlen
  refine ⟨b3, le16 b5 b6, p, hp, ?_⟩
  have hbody : ([b0, b1, b2, b3, b4, b5, b6] ++ p).length = 7 + n.toNat := by simp [hp]; omega
  obtain ⟨hlo, hhi⟩ := byteAt_append_pair hbody lo hi
  rw [hlo, show 8 + n.toNat = 7 + n.toNat + 1 by omega, hhi, slice_zero, List.take_left' hbody] at hcrc16
  have hn : BitVec.ofNat 16 p.length = le16 b1 b2 := by
    rw [hp, BitVec.ofNat_toNat, BitVec.setWidth_eq]
    exact hdlen.symm
  have hsof : b0 = sof := hsof
  have hcrc8 : b4 = crc8 (frameHeader sof b3 (le16 b1 b2)) := by
    rw [← hsof, frameHeader, loByte_le16, hiByte_le16]
    exact hcrc8
  have hframeBody : frameBody sof b3 (le16 b5 b6) p = [b0, b1, b2, b3, b4, b5, b6] ++ p := by
    rw [frameBody_eq, hn, ← hcrc8, loByte_le16, hiByte_le16, loByte_le16, hiByte_le16, ← hsof]
    rfl
  rw [buildFrame_eq, hframeBody, ← hcrc16, loByte_le16, hiByte_le16]

/-! ## A frame changed in one byte -/

theorem feedAll16_injective (bs : List Byte) : Function.Injective fun acc : Half => feedAll16 acc bs := by
  induction bs with
  | nil => exact fun _ _ h => h
  | cons b bs ih => exact fun _ _ h => feed16_injective b (ih h)

/-- The CRC-16 tells two sequences apart that differ at one place: the update is injective in the byte, and
with every later byte in the accumulator (40_crc.md section 2). -/
theorem eq_of_crc16_eq {xs ys : List Byte} {b c : Byte} (h : crc16 (xs ++ b :: ys) = crc16 (xs ++ c :: ys)) :
    b = c := by
  rw [crc16_eq, crc16_eq, value16_eq_reflect, value16_eq_reflect, feedAll16_append, feedAll16_append] at h
  have hacc := Function.LeftInverse.injective reflect_reflect h
  exact feed16_injective_byte _ (feedAll16_injective ys hacc)

theorem crc16_set_ne {bs : List Byte} {k : Nat} {b : Byte} (hk : k < bs.length) (hb : byteAt bs k ≠ b) :
    crc16 (bs.set k b) ≠ crc16 bs := by
  have hread : byteAt bs k = bs[k] := byteAt_of_getElem? (List.getElem?_eq_getElem hk)
  have hbefore : bs = bs.take k ++ bs[k] :: bs.drop (k + 1) := by simp
  have hafter : bs.set k b = bs.take k ++ b :: bs.drop (k + 1) := by
    rw [List.set_eq_take_append_cons_drop, if_pos hk]
  intro h
  have hcrc : crc16 (bs.take k ++ bs[k] :: bs.drop (k + 1)) = crc16 (bs.take k ++ b :: bs.drop (k + 1)) := by
    rw [← hbefore, ← hafter, h]
  exact hb (hread.trans (eq_of_crc16_eq hcrc))

/-- Settles O29: a change among the bytes that the CRC16 covers changes the CRC16 and not its field; a change
of the field leaves what it is compared with as it was. -/
theorem singleByteTamperingRejected : Obligations.SingleByteTamperingRejected := by
  unfold Obligations.SingleByteTamperingRejected
  intro s n bs k b hvalid hk hb
  have hinvalid : ¬ validFrame (bs.set k b) n s.cfg.sof := by
    obtain ⟨hlen, -, -, -, hcrc⟩ := hvalid
    rintro ⟨-, -, -, -, hcrc'⟩
    rw [slice_zero] at hcrc hcrc'
    by_cases hcovered : k < 7 + n.toNat
    · have hset : (bs.set k b).take (7 + n.toNat) = (bs.take (7 + n.toNat)).set k b := List.take_set
      rw [byteAt_set_ne (by omega), byteAt_set_ne (by omega), hcrc, hset] at hcrc'
      refine crc16_set_ne ?_ ?_ hcrc'.symm
      · rw [List.length_take]
        omega
      · rwa [byteAt_take hcovered]
    · rw [List.take_set_of_le (by omega), ← hcrc] at hcrc'
      obtain ⟨hlo, hhi⟩ := le16_inj hcrc'
      have hplace : k = 7 + n.toNat ∨ k = 8 + n.toNat := by omega
      obtain rfl | rfl := hplace
      · exact hb (hlo.symm.trans (byteAt_set_same hk b))
      · exact hb (hhi.symm.trans (byteAt_set_same hk b))
  have hne : parseReason s.cfg.sof n (bs.set k b) ≠ .ok := mt (parseReason_eq_ok _ _ _).mp hinvalid
  exact ⟨_, hne, exec_valParse_of_reason rfl hne⟩

/-! ## A program taken apart (30_encoding.md R88) -/

/-- An operation does not look at the operations that wait behind it. -/
theorem exec_of_exec_issue {i : Instr} {s v : State} {l : List Issue}
    (h : exec i { s with issue := l } = .next v) :
    exec i s = .next { v with issue := s.issue } ∧ v.issue = l := by
  cases completes_of_exec h with
  | crc _ _ _ _ hexec => exact ⟨hexec s, rfl⟩
  | txBuild cmd p hp => exact ⟨exec_txBuild hp cmd s, rfl⟩
  | valParse n bs => exact ⟨exec_valParse n bs s, rfl⟩
  | rxByte hname hstep => exact ⟨exec_of_rxStep rfl hname hstep, rfl⟩
  | rxAbort => exact ⟨exec_rxAbort s, rfl⟩
  | sysReset => exact ⟨exec_sysReset s, rfl⟩

/-- A program that completes ran its first operation, a sub-form as the RX.BYTE it is issued as, and the rest
on what that left. -/
theorem runProgram_cons_next {i : Instr} {ops : List Instr} {s t : State}
    (h : runProgram (i :: ops) s = .next t) :
    ∃ u : State, exec i.command s = .next u ∧ runProgram ops u = .next t := by
  rw [runProgram, List.map_cons, List.cons_append, List.length_cons, run_succ] at h
  by_cases hwf : i.wf = true
  · rw [step_of_decode (s := { s with issue := encode i :: (ops.map encode ++ s.issue) }) rfl
      (decode_encode hwf)] at h
    cases hexec : exec i.command { s with issue := ops.map encode ++ s.issue } with
    | next v =>
      obtain ⟨hu, hissue⟩ := exec_of_exec_issue hexec
      refine ⟨_, hu, ?_⟩
      simp only [hexec] at h
      rwa [runProgram, ← hissue]
    | fault f => simp only [hexec] at h; cases h
    | refused r => simp only [hexec] at h; cases h
  · rw [step_undecodable (s := { s with issue := encode i :: (ops.map encode ++ s.issue) }) rfl
      (decode_encode_of_not_wf hwf)] at h
    cases h

/-- Only SYS.RESET is issued as SYS.RESET, and only TX.BUILD as TX.BUILD. -/
theorem eq_of_command_eq {i j : Instr} (h : i.command = j) (hj : ∀ b : Byte, j ≠ .rxByte b) : i = j := by
  rw [← h]
  refine (command_of_ne_subForm fun st b hsub => hj b ?_).symm
  rw [← h, hsub, subForm_command]

/-! ## The SEQ values of consecutive builds (41_frame_codec.md section 1) -/

/-- Operations other than TX.BUILD and SYS.RESET keep `tx_seq` and return one result each. -/
theorem runProgram_others {mid ops : List Instr} {s t : State}
    (hmid : ∀ i ∈ mid, i ≠ .sysReset ∧ ∀ c p, i ≠ .txBuild c p) (h : runProgram (mid ++ ops) s = .next t) :
    ∃ (u : State) (outs : List Output), runProgram ops u = .next t ∧ u.txSeq = s.txSeq ∧
      outs.length = mid.length ∧ u.outputs = s.outputs ++ outs := by
  induction mid generalizing s with
  | nil => exact ⟨s, [], h, rfl, rfl, (List.append_nil _).symm⟩
  | cons i mid ih =>
    obtain ⟨hothers, hrest⟩ := List.forall_mem_cons.mp hmid
    obtain ⟨hreset, hbuild⟩ := hothers
    obtain ⟨v, hexec, hrun⟩ := runProgram_cons_next h
    obtain ⟨u, outs, hu, hseq, hlen, houts⟩ := ih hrest hrun
    obtain ⟨-, -, o, ho⟩ := exec_keeps_cfg_issue hexec
    have hkeep : v.txSeq = s.txSeq := by
      by_contra hne
      obtain ⟨c, p, hcmd⟩ | hcmd := txSeq_written hexec hne
      · exact hbuild c p (eq_of_command_eq hcmd nofun)
      · exact hreset (eq_of_command_eq hcmd nofun)
    exact ⟨u, o :: outs, hu, hseq.trans hkeep, by simp [hlen], by simp [houts, ho]⟩

/-- A program that ends with TX.BUILD after such operations returns, last, a frame that carries the `tx_seq` of
before them. -/
theorem runProgram_others_txBuild {mid : List Instr} {s t : State} {cmd : Half} {p : List Byte}
    (hmid : ∀ i ∈ mid, i ≠ .sysReset ∧ ∀ c p, i ≠ .txBuild c p)
    (h : runProgram (mid ++ [.txBuild cmd p]) s = .next t) :
    ∃ (f : List Byte) (outs : List Output), outs.length = mid.length ∧
      t.outputs = s.outputs ++ (outs ++ [.frame f]) ∧ byteAt f 3 = s.txSeq := by
  obtain ⟨u, outs, hrun, hseq, hlen, houts⟩ := runProgram_others hmid h
  obtain ⟨v, hexec, hnil⟩ := runProgram_cons_next hrun
  obtain ⟨-, rfl⟩ := exec_txBuild_next hexec
  cases hnil
  exact ⟨buildFrame u.cfg.sof u.txSeq cmd p, outs, hlen, by simp [houts], hseq⟩

/-- Settles O25: the three clauses are one fact about the operations between, from what TX.BUILD, SYS.RESET
and power-on leave in `tx_seq`. -/
theorem consecutiveBuildsIncrementSeq : Obligations.ConsecutiveBuildsIncrementSeq := by
  unfold Obligations.ConsecutiveBuildsIncrementSeq
  refine ⟨fun s t c₁ c₂ p₁ p₂ mid hmid h => ?afterBuild, fun s t cmd p mid hmid h => ?afterReset,
    fun cfg t cmd p mid hmid h => ?afterPowerOn⟩
  case afterBuild =>
    obtain ⟨u, hexec, hrun⟩ := runProgram_cons_next h
    obtain ⟨-, rfl⟩ := exec_txBuild_next hexec
    obtain ⟨f, outs, hlen, houts, hseq⟩ := runProgram_others_txBuild hmid hrun
    exact ⟨buildFrame s.cfg.sof s.txSeq c₁ p₁, f, outs, hlen, by simp [houts], hseq⟩
  case afterReset =>
    obtain ⟨u, hexec, hrun⟩ := runProgram_cons_next h
    cases hexec
    obtain ⟨f, outs, hlen, houts, hseq⟩ := runProgram_others_txBuild hmid hrun
    exact ⟨f, outs, hlen, by simp [houts], hseq⟩
  case afterPowerOn => exact runProgram_others_txBuild hmid h

end Sys2Proof.Machine
end

section
/-!
Runs of the receiver (42_receiver.md section 5, 30_encoding.md R89): RX.FEED completes, noise is discarded,
a frame that fits is taken segment by segment and ends with its outcome, the receiver is back in state SOF
within a bound, and what a false start costs.
-/

namespace Sys2Proof.Machine

/-! ## Runs put together and taken apart -/

section
variable {cfg : Config} {r r₁ r' : Rx} {b : Byte} {bs xs ys : List Byte} {e : Event} {es es' : List Event}

theorem rxRun_cons (h : rxStep cfg r b = .ok (r₁, e)) (hrest : rxRun cfg r₁ bs = .ok (r', es)) :
    rxRun cfg r (b :: bs) = .ok (r', e :: es) := by
  rw [rxRun_cons_ok bs h, hrest]
  rfl

theorem rxRun_append_ok (hxs : rxRun cfg r xs = .ok (r₁, es)) (hys : rxRun cfg r₁ ys = .ok (r', es')) :
    rxRun cfg r (xs ++ ys) = .ok (r', es ++ es') := by
  rw [rxRun_append ys hxs, hys]
  rfl

/-- A run that completes took its first byte and ran on. -/
theorem rxRun_cons_inv (h : rxRun cfg r (b :: bs) = .ok (r', es)) :
    ∃ (r₁ : Rx) (e : Event) (es' : List Event),
      rxStep cfg r b = .ok (r₁, e) ∧ rxRun cfg r₁ bs = .ok (r', es') ∧ es = e :: es' := by
  cases hstep : rxStep cfg r b with
  | error f => rw [rxRun_cons_error bs hstep] at h; cases h
  | ok p =>
    obtain ⟨r₁, e⟩ := p
    rw [rxRun_cons_ok bs hstep] at h
    cases hrest : rxRun cfg r₁ bs with
    | error f => rw [hrest] at h; cases h
    | ok q =>
      obtain ⟨r₂, es'⟩ := q
      rw [hrest] at h
      cases h
      exact ⟨r₁, e, es', rfl, hrest, rfl⟩

/-- The first `k` bytes of a run that completes are a run that completes, with the first `k` events. -/
theorem rxRun_take (h : rxRun cfg r bs = .ok (r', es)) (k : Nat) :
    ∃ r₁ : Rx, rxRun cfg r (bs.take k) = .ok (r₁, es.take k) := by
  induction bs generalizing r es k with
  | nil =>
    cases h
    exact ⟨_, by rw [List.take_nil, List.take_nil, rxRun_nil]⟩
  | cons b bs ih =>
    obtain ⟨r₁, e, es', hstep, hrest, rfl⟩ := rxRun_cons_inv h
    cases k with
    | zero => exact ⟨_, rfl⟩
    | succ k =>
      obtain ⟨r₂, htake⟩ := ih hrest k
      exact ⟨r₂, rxRun_cons hstep htake⟩

/-- In the ranges of 10_state.md R37 every run completes, in those ranges, with one event a byte. -/
theorem rxRun_total (hr : r.inRange cfg) (bs : List Byte) :
    ∃ (r' : Rx) (es : List Event), rxRun cfg r bs = .ok (r', es) ∧ r'.inRange cfg ∧ es.length = bs.length := by
  induction bs generalizing r with
  | nil => exact ⟨r, [], rfl, hr, rfl⟩
  | cons b bs ih =>
    obtain ⟨r₁, e, hstep⟩ := rxStep_total hr b
    obtain ⟨r', es, hrest, hr', hlen⟩ := ih ((rxMove_of_rxStep hstep).inRange hr)
    exact ⟨r', e :: es, rxRun_cons hstep hrest, hr', by simp [hlen]⟩

end

/-- RX.FEED where the run of the receiver is known. -/
theorem rxFeed_of_rxRun {s : State} {bs : List Byte} {r : Rx} {es : List Event}
    (h : rxRun s.cfg s.rx bs = .ok (r, es)) :
    rxFeed bs s = .next { s with rx := r, outputs := s.outputs ++ es.map .event } := by
  rw [rxFeed_eq, h]

theorem rxFeedResult_of_rxRun {s : State} {bs : List Byte} {r : Rx} {es : List Event}
    (h : rxRun s.cfg s.rx bs = .ok (r, es)) :
    rxFeedResult bs s = .next
      ({ s with rx := r, outputs := s.outputs ++ es.map .event }, taggedEvents 0 (es.map .event)) := by
  rw [rxFeedResult_eq, h]

/-! ## RX.FEED and its result (30_encoding.md R89) -/

/-- The tags rise: each byte has one event. -/
theorem taggedEvents_pairwise (k : Nat) (es : List Event) :
    (taggedEvents k (es.map .event)).Pairwise (fun x y => x.1 < y.1) := by
  induction es generalizing k with
  | nil => exact .nil
  | cons e es ih =>
    rw [List.map_cons]
    by_cases he : e = .none
    · rw [he, taggedEvents_none]
      exact ih (k + 1)
    · rw [taggedEvents_event k he]
      refine List.pairwise_cons.mpr ⟨fun x hx => ?_, ih (k + 1)⟩
      obtain ⟨hlater, -⟩ := (mem_taggedEvents (k + 1) es x.1 x.2).mp hx
      exact hlater

/-- Settles O41: one byte and a run of bytes are answered in the ranges of R37, and the tagged list is that of
the run's events. -/
theorem rxByteIsTotal : Obligations.RxByteIsTotal := by
  unfold Obligations.RxByteIsTotal
  refine ⟨fun s b hr => ?byte, fun s bs hr => ?feed⟩
  case byte =>
    obtain ⟨r, e, hstep⟩ := rxStep_total hr b
    exact ⟨r, e, exec_of_rxStep rfl (.inr rfl) hstep⟩
  case feed =>
    obtain ⟨r, es, hrun, -, hlen⟩ := rxRun_total hr bs
    exact ⟨r, es, taggedEvents 0 (es.map .event), rxFeedResult_of_rxRun hrun, rxFeed_of_rxRun hrun, hlen,
      fun k e => by simpa using mem_taggedEvents 0 es k e, taggedEvents_pairwise 0 es⟩

/-! ## Noise (60_exceptions.md section 1) -/

theorem rxRun_noise {cfg : Config} {r : Rx} (hst : r.state = .sof) {bs : List Byte} (hbs : ∀ b ∈ bs, b ≠ cfg.sof) :
    rxRun cfg r bs = .ok (r, List.replicate bs.length .badSof) := by
  induction bs with
  | nil => rfl
  | cons b bs ih =>
    obtain ⟨hb, hrest⟩ := List.forall_mem_cons.mp hbs
    exact rxRun_cons ((rxStep_sof b hst).trans (rxSof_noise hb)) (ih hrest)

/-- Settles O55: each byte leaves the receiver as it was. -/
theorem noiseIsDiscarded : Obligations.NoiseIsDiscarded := by
  unfold Obligations.NoiseIsDiscarded
  intro bs s hst hbs
  rw [rxFeed_of_rxRun (rxRun_noise hst hbs), List.map_replicate]

/-! ## A frame, segment by segment -/

/-- The receiver after the header of a frame of payload length `n` (42_receiver.md R154 to R158). -/
def Rx.afterHeader (cfg : Config) (r : Rx) (seq : Byte) (n : Half) : Rx :=
  { r with
    state := .crc8, offset := 0#16, dlen := n, cmd := 0#16, crc16Value := 0#16, seq := seq,
    prevSeq := if cfg.dupSuppress then seq else r.prevSeq,
    abandon := cfg.dupSuppress && seq == r.prevSeq,
    c8Acc := feedAll8 init8 (frameHeader cfg.sof seq n), c16Acc := feedAll16 init16 (frameHeader cfg.sof seq n) }

/-- The duplicate policy as one update (42_receiver.md R158). -/
theorem Rx.markDuplicate_eq (cfg : Config) (r : Rx) (b : Byte) :
    r.markDuplicate cfg b = { r with
      abandon := r.abandon || (cfg.dupSuppress && b == r.prevSeq),
      prevSeq := if cfg.dupSuppress then b else r.prevSeq } := by
  cases hdup : cfg.dupSuppress with
  | false => simp [Rx.markDuplicate_off hdup]
  | true =>
    by_cases hb : b = r.prevSeq
    · rw [Rx.markDuplicate_repeated hdup hb]
      simp [hb]
    · simp [Rx.markDuplicate_new hdup hb, hb]

section
variable {cfg : Config} {r : Rx}

/-- Two bytes of DLEN after the marker, up to the test against the capacity. -/
theorem rxRun_marker_dlenLow (hst : r.state = .sof) (lo : Byte) :
    rxRun cfg r [cfg.sof, lo] =
      .ok ({ ({ (r.clear.seed.feedBoth cfg.sof) with state := .dlen }.feedBoth lo) with
        dlen := zext16 lo, offset := 1#16 }, [.none, .none]) :=
  rxRun_cons ((rxStep_sof _ hst).trans (rxSof_marker rfl))
    (rxRun_cons ((rxStep_dlen _ rfl).trans (rxDlen_low rfl)) rfl)

theorem rxRun_header (hst : r.state = .sof) (seq : Byte) {n : Half} (hfits : n ≤ cfg.maxDlen) :
    rxRun cfg r (frameHeader cfg.sof seq n) = .ok (r.afterHeader cfg seq n, List.replicate 4 .none) := by
  refine rxRun_append_ok (xs := [cfg.sof, loByte n]) (ys := [hiByte n, seq])
    (rxRun_marker_dlenLow hst (loByte n)) ?_
  have hcompleted : le16 (loByte (zext16 (loByte n))) (hiByte n) = n := by simp
  refine rxRun_cons ((rxStep_dlen _ rfl).trans (rxDlen_fits (by simp) (by rwa [hcompleted]))) ?_
  refine rxRun_cons ((rxStep_seq _ rfl).trans (rxSeq_of_markDuplicate (Rx.markDuplicate_eq _ _ _))) ?_
  rw [hcompleted]
  rfl

/-- A length above the capacity ends the frame with its second byte. -/
theorem rxRun_overflow (hst : r.state = .sof) {lo hi : Byte} (hover : cfg.maxDlen < le16 lo hi) :
    ∃ r' : Rx, rxRun cfg r [cfg.sof, lo, hi] = .ok (r', [.none, .none, .dlenOverflow]) ∧ r'.state = .sof := by
  refine ⟨_, rxRun_append_ok (rxRun_marker_dlenLow hst lo)
    (rxRun_cons ((rxStep_dlen _ rfl).trans (rxDlen_overflow (by simp) ?_)) rfl), rfl⟩
  simpa using hover

theorem rxRun_crc8 (hst : r.state = .crc8) {b : Byte} (hb : b = value8 r.c8Acc) :
    rxRun cfg r [b] = .ok ({ r with c16Acc := feed16 r.c16Acc b, state := .cmd }, [.none]) :=
  rxRun_cons ((rxStep_crc8 _ hst).trans (rxCrc8_match (hb.trans (value8_eq_reflect _)))) (rxRun_nil _ _)

theorem rxRun_cmd (hst : r.state = .cmd) (ho : r.offset = 0#16) (cmd : Half) :
    rxRun cfg r [loByte cmd, hiByte cmd] =
      .ok ({ r with
        cmd := cmd, state := if r.dlen = 0#16 then .crc16 else .data,
        c8Acc := feedAll8 r.c8Acc [loByte cmd, hiByte cmd],
        c16Acc := feedAll16 r.c16Acc [loByte cmd, hiByte cmd] }, [.none, .none]) := by
  refine rxRun_cons ((rxStep_cmd _ hst).trans (rxCmd_low ho)) ?_
  refine rxRun_cons (Eq.trans (rxStep_cmd _ hst) (rxCmd_high (by simp))) ?_
  have hfield : le16 (loByte (zext16 (loByte cmd))) (hiByte cmd) = cmd := by simp
  rw [hfield, ho]
  rfl

/-- The bytes of a payload, written one after the other from index `i` on. -/
def Memory.writeAll (m : Memory) (i : Nat) : List Byte → Memory
  | []      => m
  | b :: bs => (Memory.write m i b).writeAll (i + 1) bs

/-- What is written from index `i` on stands behind the first `i` bytes. -/
theorem Memory.firstBytes_writeAll (m : Memory) (i : Nat) (bs : List Byte) :
    (m.writeAll i bs).firstBytes (i + bs.length) = m.firstBytes i ++ bs := by
  induction bs generalizing m i with
  | nil => simp [Memory.writeAll]
  | cons b bs ih =>
    have hb : (Memory.write m i b).byte i = b := Memory.byte_of_read (Memory.read_write_same m i b)
    rw [Memory.writeAll, List.length_cons, show i + (bs.length + 1) = i + 1 + bs.length by omega, ih,
      Memory.firstBytes_succ, Memory.firstBytes_write m b (le_refl i), hb]
    simp

/-- The rest of a payload, from the first byte not yet taken to the last. -/
theorem rxRun_data (hst : r.state = .data) (hfits : r.dlen ≤ cfg.maxDlen) {p : List Byte} (hne : p ≠ [])
    (hp : r.offset.toNat + p.length = r.dlen.toNat) :
    rxRun cfg r p =
      .ok ({ r with
        state := .crc16, offset := 0#16, buf := r.buf.writeAll r.offset.toNat p,
        c8Acc := feedAll8 r.c8Acc p, c16Acc := feedAll16 r.c16Acc p }, List.replicate p.length .none) := by
  induction p generalizing r with
  | nil => exact absurd rfl hne
  | cons b p ih =>
    have hlt : r.offset < r.dlen := by
      rw [BitVec.lt_def]
      simp only [List.length_cons] at hp
      omega
    have hstep := (rxStep_data b hst).trans (rxData_stores (b := b) hst hlt hfits)
    cases p with
    | nil =>
      have hlast : r.offset.toNat + 1 = r.dlen.toNat := hp
      simp only [hlast, if_true] at hstep
      exact rxRun_cons hstep rfl
    | cons c p =>
      have hmore : r.offset.toNat + 1 ≠ r.dlen.toNat := by
        simp only [List.length_cons] at hp
        omega
      simp only [hmore, if_false] at hstep
      have hnext := toNat_offset_succ hlt
      refine rxRun_cons hstep (Eq.trans (ih rfl hfits (by simp) ?_) ?_)
      · refine Eq.trans ?_ hp
        simp only [hnext, List.length_cons]
        omega
      · rw [hnext]
        rfl

/-- A whole payload, the empty one included (42_receiver.md R162, R164). -/
theorem rxRun_payload {p : List Byte} (hst : r.state = if r.dlen = 0#16 then .crc16 else .data)
    (ho : r.offset = 0#16) (hfits : r.dlen ≤ cfg.maxDlen) (hp : p.length = r.dlen.toNat) :
    rxRun cfg r p =
      .ok ({ r with
        state := .crc16, buf := r.buf.writeAll 0 p,
        c8Acc := feedAll8 r.c8Acc p, c16Acc := feedAll16 r.c16Acc p }, List.replicate p.length .none) := by
  cases p with
  | nil =>
    have hempty : r.dlen = 0#16 := BitVec.eq_of_toNat_eq hp.symm
    rw [if_pos hempty] at hst
    rw [rxRun_nil, ← hst]
    rfl
  | cons b p =>
    have hpayload : r.dlen ≠ 0#16 := by
      rintro h
      simp [h] at hp
    rw [if_neg hpayload] at hst
    rw [rxRun_data hst hfits (by simp) (by simp [ho, hp]), ho]
    rfl

theorem rxRun_crc16 {e : Event} (hst : r.state = .crc16) (ho : r.offset = 0#16) {v : Half}
    (hend : { r with crc16Value := v, offset := 1#16 }.frameEndEvent cfg = .ok e) :
    rxRun cfg r [loByte v, hiByte v] = .ok (r.dropFrame, [.none, e]) := by
  refine rxRun_cons ((rxStep_crc16 _ hst).trans (rxCrc16_low ho)) ?_
  refine rxRun_cons (Eq.trans (rxStep_crc16 _ hst) (rxCrc16_end (by simp) ?_)) rfl
  simpa using hend

end
end Sys2Proof.Machine
end

section
/-!
Whole frames through the receiver (42_receiver.md section 5): acceptance from idle, after RX.ABORT and in
loop-back (30_encoding.md section 6); then how far the receiver is from state SOF, the bound on its return and
the cost of a false start.
-/

namespace Sys2Proof.Machine

/-! ## A built frame, taken from idle -/

section
variable {cfg : Config} {r : Rx}

/-- The outcome of a frame by its fields (42_receiver.md R174). -/
def frameOutcome (cfg : Config) (prevSeq seq : Byte) (cmd : Half) (p : List Byte) : Event :=
  if cfg.dupSuppress && seq == prevSeq then .duplicate
  else if subscribed cfg cmd then .dispatch cmd p
  else .unknownCmd cmd (BitVec.ofNat 16 p.length)

/-- The outcome by the fields is the outcome of the frame they make. -/
theorem acceptedEvent_buildFrame (cfg : Config) (prevSeq seq : Byte) (cmd : Half) {p : List Byte}
    (hp : p.length ≤ maxPayload) :
    acceptedEvent cfg prevSeq (buildFrame cfg.sof seq cmd p) (BitVec.ofNat 16 p.length) =
      frameOutcome cfg prevSeq seq cmd p := by
  rw [acceptedEvent, byteAt_buildFrame_seq, frameCmd_buildFrame, toNat_ofNat_payloadLength hp,
    framePayload_buildFrame, frameOutcome]
  simp

/-- The receiver after a frame's body, at the two bytes of its CRC16: the registers that decide the outcome. -/
structure Rx.AtFrameEnd (cfg : Config) (r : Rx) (prevSeq seq : Byte) (cmd : Half) (p : List Byte) : Prop where
  state_eq   : r.state = .crc16
  offset_eq  : r.offset = 0#16
  dlen_eq    : r.dlen = BitVec.ofNat 16 p.length
  cmd_eq     : r.cmd = cmd
  abandon_eq : r.abandon = (cfg.dupSuppress && seq == prevSeq)
  payload_eq : r.buf.firstBytes p.length = p
  c16Acc_eq  : r.c16Acc = feedAll16 init16 (frameBody cfg.sof seq cmd p)

/-- The body of a frame that fits is taken without an event: the header, its CRC8, the command id and the
payload, one segment after the other. -/
theorem rxRun_frameBody (hst : r.state = .sof) (seq : Byte) (cmd : Half) {p : List Byte}
    (hp : p.length ≤ maxPayload) (hfits : BitVec.ofNat 16 p.length ≤ cfg.maxDlen) :
    ∃ r' : Rx, rxRun cfg r (frameBody cfg.sof seq cmd p) = .ok (r', List.replicate (p.length + 7) .none) ∧
      r'.AtFrameEnd cfg r.prevSeq seq cmd p := by
  have hn := toNat_ofNat_payloadLength hp
  have hheader := rxRun_header hst seq hfits
  have hcrc8 := rxRun_append_ok hheader (rxRun_crc8 rfl rfl)
  have hcmd := rxRun_append_ok hcrc8 (rxRun_cmd rfl rfl cmd)
  have hpayload := rxRun_append_ok hcmd (rxRun_payload rfl rfl hfits hn.symm)
  have hevents : List.replicate 4 Event.none ++ [Event.none] ++ [Event.none, Event.none] ++
      List.replicate p.length Event.none = List.replicate (p.length + 7) Event.none := by
    simp [List.replicate_succ]
  rw [hevents] at hpayload
  have hwritten : (r.buf.writeAll 0 p).firstBytes p.length = p := by
    simpa using Memory.firstBytes_writeAll r.buf 0 p
  exact ⟨_, hpayload, rfl, rfl, rfl, rfl, rfl, hwritten, rfl⟩

/-- Where the CRC16 matches, the outcome is decided by flag and subscription. -/
theorem frameEndEvent_eq_frameOutcome {prevSeq seq : Byte} {cmd : Half} {p : List Byte}
    (hp : p.length ≤ maxPayload) (hfits : BitVec.ofNat 16 p.length ≤ cfg.maxDlen)
    (hcrc : reflect r.c16Acc = r.crc16Value) (hdlen : r.dlen = BitVec.ofNat 16 p.length) (hcmd : r.cmd = cmd)
    (habandon : r.abandon = (cfg.dupSuppress && seq == prevSeq)) (hpayload : r.buf.firstBytes p.length = p) :
    r.frameEndEvent cfg = .ok (frameOutcome cfg prevSeq seq cmd p) := by
  subst hcmd
  rw [frameOutcome]
  cases hdup : cfg.dupSuppress && seq == prevSeq with
  | true => exact frameEndEvent_duplicate hcrc (habandon.trans hdup)
  | false =>
    cases hsub : subscribed cfg r.cmd with
    | false =>
      rw [frameEndEvent_unknownCmd hcrc (habandon.trans hdup) hsub, hdlen]
      rfl
    | true =>
      rw [frameEndEvent_dispatch hcrc (habandon.trans hdup) hsub (hdlen ▸ hfits), hdlen,
        toNat_ofNat_payloadLength hp, hpayload]
      rfl

theorem rxRun_buildFrame (hst : r.state = .sof) (seq : Byte) (cmd : Half) {p : List Byte}
    (hp : p.length ≤ maxPayload) (hfits : BitVec.ofNat 16 p.length ≤ cfg.maxDlen) :
    ∃ r' : Rx, r'.state = .sof ∧ rxRun cfg r (buildFrame cfg.sof seq cmd p) =
      .ok (r', List.replicate (p.length + 8) Event.none ++ [frameOutcome cfg r.prevSeq seq cmd p]) := by
  obtain ⟨r₁, hbody, hend⟩ := rxRun_frameBody hst seq cmd hp hfits
  have hcrc : reflect r₁.c16Acc = crc16 (frameBody cfg.sof seq cmd p) := by
    rw [hend.c16Acc_eq, crc16_eq, value16_eq_reflect]
  have hcrc16 := rxRun_crc16 (v := crc16 (frameBody cfg.sof seq cmd p)) hend.state_eq hend.offset_eq
    (frameEndEvent_eq_frameOutcome hp hfits hcrc hend.dlen_eq hend.cmd_eq hend.abandon_eq hend.payload_eq)
  refine ⟨r₁.dropFrame, rfl, ?_⟩
  rw [buildFrame_eq, rxRun_append_ok hbody hcrc16, List.replicate_succ' (n := p.length + 7)]
  simp

end

/-! ## Acceptance (R174) -/

/-- Settles O56: a valid frame is a built one. -/
theorem validFrameAcceptedFromIdle : Obligations.ValidFrameAcceptedFromIdle := by
  unfold Obligations.ValidFrameAcceptedFromIdle
  intro s n bs hst hvalid hfits
  obtain ⟨seq, cmd, p, hp, rfl⟩ := eq_buildFrame_of_validFrame hvalid
  have hn : BitVec.ofNat 16 p.length = n := by rw [hp, BitVec.ofNat_toNat, BitVec.setWidth_eq]
  have hmax : p.length ≤ maxPayload := hp ▸ Nat.le_of_lt_succ n.isLt
  obtain ⟨r, hr, hrun⟩ := rxRun_buildFrame hst seq cmd hmax (hn ▸ hfits)
  refine ⟨r, hr, ?_⟩
  rw [rxFeed_of_rxRun hrun, ← hp, ← hn, acceptedEvent_buildFrame _ _ _ _ hmax]
  simp

/-- Settles O57: the bytes before RX.ABORT only matter for what they leave in `rx_prev_seq`. -/
theorem abortThenFrameAccepted : Obligations.AbortThenFrameAccepted := by
  unfold Obligations.AbortThenFrameAccepted
  intro s n junk bs hr hvalid hfits
  obtain ⟨r₁, es, hrun, -, -⟩ := rxRun_total hr junk
  obtain ⟨r₃, hsof, haccepted⟩ := validFrameAcceptedFromIdle
    { s with rx := r₁.dropFrame, outputs := s.outputs ++ es.map .event ++ [.none] } n bs rfl hvalid hfits
  exact ⟨_, _, _, rxFeed_of_rxRun hrun, exec_rxAbort _, haccepted, hsof, rfl⟩

/-- PUBLISH is TX.BUILD alone (30_encoding.md R89). -/
theorem publish_eq {cmd : Half} {p : List Byte} (hp : p.length ≤ maxPayload) (s : State) :
    publish cmd p s = .next { s with
      txSeq := s.txSeq + 1#8, outputs := s.outputs ++ [.frame (buildFrame s.cfg.sof s.txSeq cmd p)] } :=
  runProgram_cons (i := .txBuild cmd p) (ops := []) (t := { s with
    txSeq := s.txSeq + 1#8, outputs := s.outputs ++ [.frame (buildFrame s.cfg.sof s.txSeq cmd p)] })
    (decode_encode (decide_eq_true hp)) (exec_txBuild hp cmd s)

/-- LOOPBACK is RX.FEED of the frame that TX.BUILD returns (30_encoding.md R89). -/
theorem loopback_eq {cmd : Half} {p : List Byte} (hp : p.length ≤ maxPayload) (s : State) :
    loopback cmd p s = rxFeed (buildFrame s.cfg.sof s.txSeq cmd p) { s with
      txSeq := s.txSeq + 1#8, outputs := s.outputs ++ [.frame (buildFrame s.cfg.sof s.txSeq cmd p)] } := by
  simp [loopback, publish_eq hp]

/-- Settles O58: the frame is taken from idle, and with suppression off and the id subscribed its outcome is
the dispatch. -/
theorem loopbackDispatches : Obligations.LoopbackDispatches := by
  unfold Obligations.LoopbackDispatches
  intro s cmd p hst hfits hdup hsub
  have hmax : p.length ≤ maxPayload := hfits.trans (Nat.le_of_lt_succ s.cfg.maxDlen.isLt)
  have hfits' : BitVec.ofNat 16 p.length ≤ s.cfg.maxDlen := by
    rwa [BitVec.le_def, toNat_ofNat_payloadLength hmax]
  obtain ⟨r, hr, hrun⟩ := rxRun_buildFrame hst s.txSeq cmd hmax hfits'
  have houtcome : frameOutcome s.cfg s.rx.prevSeq s.txSeq cmd p = .dispatch cmd p := by
    simp [frameOutcome, hdup, hsub]
  rw [houtcome] at hrun
  refine ⟨buildFrame s.cfg.sof s.txSeq cmd p, _, (loopback_eq hmax s).trans (rxFeed_of_rxRun hrun), hr, rfl,
    buildFrame_length _ _ _ _, ?_⟩
  simp

/-! ## How far the receiver is from state SOF -/

/-- The most bytes the receiver takes until it is in state SOF again; from state CRC8 on, if no check fails
before, the exact number (42_receiver.md section 5). -/
def Rx.bytesToSof (cfg : Config) (r : Rx) : Nat :=
  match r.state with
  | .sof   => 0
  | .dlen  => 8 + cfg.maxDlen.toNat - r.offset.toNat
  | .seq   => 6 + r.dlen.toNat
  | .crc8  => 5 + r.dlen.toNat
  | .cmd   => 4 + r.dlen.toNat - r.offset.toNat
  | .data  => 2 + r.dlen.toNat - r.offset.toNat
  | .crc16 => 2 - r.offset.toNat

/-- The receiver is past the header check. -/
def Rx.pastHeader (r : Rx) : Prop := r.state = .cmd ∨ r.state = .data ∨ r.state = .crc16

section
variable {cfg : Config} {r r' : Rx} {b : Byte} {e : Event}

theorem Rx.bytesToSof_le (hr : r.inRange cfg) : r.bytesToSof cfg ≤ 8 + cfg.maxDlen.toNat := by
  unfold Rx.inRange at hr
  unfold Rx.bytesToSof
  cases hst : r.state <;> simp only [hst] at hr ⊢ <;> bv_omega

theorem Rx.bytesToSof_of_sof (hst : r.state = .sof) : r.bytesToSof cfg = 0 := by
  rw [Rx.bytesToSof, hst]

/-- Past the header every byte brings the receiver one byte nearer, and the last one ends the frame. -/
theorem bytesToSof_of_pastHeader (hstep : rxStep cfg r b = .ok (r', e)) (hr : r.inRange cfg)
    (hpast : r.pastHeader) :
    r'.bytesToSof cfg + 1 = r.bytesToSof cfg ∧
      ((r'.pastHeader ∧ e = .none) ∨ (r'.state = .sof ∧ 4#3 ≤ e.code)) := by
  obtain hst | hst | hst := hpast
  · rw [rxStep_cmd b hst] at hstep
    simp only [Rx.inRange, hst] at hr
    obtain ⟨ho', -⟩ := hr
    obtain ⟨rfl, ⟨ho, rfl⟩ | ⟨ho, hd, rfl⟩ | ⟨ho, hd, rfl⟩⟩ := rxCmd_cases hstep
    · refine ⟨?_, .inl ⟨.inl hst, rfl⟩⟩
      simp [Rx.bytesToSof, hst, ho]
      omega
    · refine ⟨?_, .inl ⟨.inr (.inr rfl), rfl⟩⟩
      simp [Rx.bytesToSof, hst, ho'.resolve_left ho, hd]
    · refine ⟨?_, .inl ⟨.inr (.inl rfl), rfl⟩⟩
      simp [Rx.bytesToSof, hst, ho'.resolve_left ho]
      omega
  · rw [rxStep_data b hst] at hstep
    simp only [Rx.inRange, hst] at hr
    obtain ⟨hlt, -⟩ := hr
    have hnext := toNat_offset_succ hlt
    have hlast := offset_succ_eq_dlen_iff hlt
    rw [BitVec.lt_def] at hlt
    obtain ⟨-, rfl, ⟨hl, rfl⟩ | ⟨hl, rfl⟩⟩ := rxData_cases hstep
    · refine ⟨?_, .inl ⟨.inr (.inr rfl), rfl⟩⟩
      have hend := hlast.mp hl
      simp [Rx.bytesToSof, hst]
      omega
    · refine ⟨?_, .inl ⟨.inr (.inl hst), rfl⟩⟩
      simp [Rx.bytesToSof, hst, hnext]
      omega
  · rw [rxStep_crc16 b hst] at hstep
    simp only [Rx.inRange, hst] at hr
    obtain ⟨ho', -⟩ := hr
    obtain ⟨ho, rfl, rfl⟩ | ⟨ho, rfl, hend⟩ := rxCrc16_cases hstep
    · refine ⟨?_, .inl ⟨.inr (.inr hst), rfl⟩⟩
      simp [Rx.bytesToSof, hst, ho]
    · refine ⟨?_, .inr ⟨rfl, four_le_code_of_frameEndEvent hend⟩⟩
      simp [Rx.bytesToSof, hst, ho'.resolve_left ho]

/-- Outside state SOF every byte brings the receiver nearer to it. -/
theorem bytesToSof_lt (hstep : rxStep cfg r b = .ok (r', e)) (hr : r.inRange cfg) (hst : r.state ≠ .sof) :
    r'.bytesToSof cfg < r.bytesToSof cfg := by
  by_cases hpast : r.pastHeader
  · obtain ⟨hcount, -⟩ := bytesToSof_of_pastHeader hstep hr hpast
    omega
  · cases rxMove_of_rxStep hstep with
    | noise h | start h => exact absurd h hst
    | dlenLow h ho => simp [Rx.bytesToSof, h, ho]
    | dlenOverflow h ho =>
      simp only [Rx.inRange, h] at hr
      simp [Rx.bytesToSof, h, hr.resolve_left ho]
    | dlenHigh h ho hfits =>
      simp only [Rx.inRange, h] at hr
      rw [BitVec.le_def] at hfits
      simp [Rx.bytesToSof, h, hr.resolve_left ho]
      omega
    | seq h => simp [Rx.bytesToSof, h]
    | crc8Match h =>
      simp only [Rx.inRange, h] at hr
      obtain ⟨ho, -⟩ := hr
      simp [Rx.bytesToSof, h, ho]
    | crc8Mismatch h => simp [Rx.bytesToSof, h]
    | cmdLow h | cmdEmpty h | cmdPayload h => exact absurd (.inl h) hpast
    | dataLast h | dataMore h => exact absurd (.inr (.inl h)) hpast
    | crc16Low h | frameEnd h => exact absurd (.inr (.inr h)) hpast

/-- Every byte but the last of a frame reports nothing. -/
theorem RxMove.none_iff_state (h : RxMove cfg r b r' e) : e = .none ↔ r'.state ≠ .sof := by
  cases h with
  | noise hsof => simp [hsof]
  | dlenOverflow | crc8Mismatch => simp
  | frameEnd _ _ hend =>
    have hcode := four_le_code_of_frameEndEvent hend
    refine ⟨?_, fun hsof => absurd rfl hsof⟩
    rintro rfl
    exact absurd hcode (by decide)
  | dlenLow hst | cmdLow hst | dataMore hst | crc16Low hst => simp [hst]
  | start | dlenHigh | seq | crc8Match | cmdEmpty | cmdPayload | dataLast => simp

/-- With enough bytes to come, the receiver is in state SOF after some of them. -/
theorem exists_rxRun_sof (hr : r.inRange cfg) {bs : List Byte} (hbs : r.bytesToSof cfg ≤ bs.length) :
    ∃ (k : Nat) (r' : Rx) (es : List Event), k ≤ bs.length ∧ rxRun cfg r (bs.take k) = .ok (r', es) ∧
      r'.state = .sof := by
  induction bs generalizing r with
  | nil =>
    refine ⟨0, r, [], Nat.le_refl 0, rfl, ?_⟩
    by_contra hst
    obtain ⟨r', e, hstep⟩ := rxStep_total hr 0#8
    exact absurd ((bytesToSof_lt hstep hr hst).trans_le hbs) (Nat.not_lt_zero _)
  | cons b bs ih =>
    by_cases hst : r.state = .sof
    · exact ⟨0, r, [], Nat.zero_le _, rfl, hst⟩
    · obtain ⟨r₁, e, hstep⟩ := rxStep_total hr b
      have hnearer := bytesToSof_lt hstep hr hst
      have hbs₁ : r₁.bytesToSof cfg ≤ bs.length := by
        rw [List.length_cons] at hbs
        omega
      obtain ⟨k, r', es, hk, hrun, hsof⟩ := ih ((rxMove_of_rxStep hstep).inRange hr) hbs₁
      exact ⟨k + 1, r', e :: es, Nat.succ_le_succ hk, rxRun_cons hstep hrun, hsof⟩

/-- Past the header the frame ends with the last of the bytes still to come, and not before. -/
theorem rxRun_of_pastHeader (hr : r.inRange cfg) (hpast : r.pastHeader) {bs : List Byte}
    (hbs : bs.length = r.bytesToSof cfg) :
    ∃ (r' : Rx) (e : Event), rxRun cfg r bs = .ok (r', List.replicate (bs.length - 1) Event.none ++ [e]) ∧
      r'.state = .sof ∧ 4#3 ≤ e.code := by
  induction bs generalizing r with
  | nil =>
    obtain ⟨r₁, e, hstep⟩ := rxStep_total hr 0#8
    obtain ⟨hcount, -⟩ := bytesToSof_of_pastHeader hstep hr hpast
    exact absurd (hbs.trans hcount.symm) (by simp)
  | cons b bs ih =>
    obtain ⟨r₁, e, hstep⟩ := rxStep_total hr b
    obtain ⟨hcount, ⟨hpast₁, rfl⟩ | ⟨hsof, hcode⟩⟩ := bytesToSof_of_pastHeader hstep hr hpast
    · have hbs₁ : bs.length = r₁.bytesToSof cfg := by
        rw [List.length_cons] at hbs
        omega
      obtain ⟨r', e, hrun, hsof, hcode⟩ := ih ((rxMove_of_rxStep hstep).inRange hr) hpast₁ hbs₁
      refine ⟨r', e, (rxRun_cons hstep hrun).trans ?_, hsof, hcode⟩
      cases bs with
      | nil => cases hrun
      | cons c bs => rfl
    · rw [Rx.bytesToSof_of_sof hsof] at hcount
      have hnil : bs = [] := List.eq_nil_of_length_eq_zero (by rw [List.length_cons] at hbs; omega)
      subst hnil
      exact ⟨r₁, e, rxRun_cons hstep rfl, hsof, hcode⟩

/-- While nothing is reported the receiver is not in state SOF. -/
theorem state_ne_sof_of_rxRun {bs : List Byte} {es : List Event} (h : rxRun cfg r bs = .ok (r', es))
    (hbs : bs ≠ []) (hes : ∀ e ∈ es, e = .none) : r'.state ≠ .sof := by
  induction bs generalizing r es with
  | nil => exact absurd rfl hbs
  | cons b bs ih =>
    obtain ⟨r₁, e, es', hstep, hrest, rfl⟩ := rxRun_cons_inv h
    obtain ⟨he, hes'⟩ := List.forall_mem_cons.mp hes
    cases bs with
    | nil =>
      cases hrest
      exact (rxMove_of_rxStep hstep).none_iff_state.mp he
    | cons c bs => exact ih hrest (by simp) hes'

end

/-- Settles O59: the distance to state SOF is bounded in the ranges of R37, and every byte lowers it. -/
theorem returnsToSofWithinBound : Obligations.ReturnsToSofWithinBound := by
  unfold Obligations.ReturnsToSofWithinBound
  intro s bs hr hbs
  obtain ⟨k, r, es, hk, hrun, hsof⟩ := exists_rxRun_sof hr (hbs ▸ Rx.bytesToSof_le hr)
  exact ⟨k, _, hk, rxFeed_of_rxRun hrun, hsof⟩

/-! ## A false start -/

/-- A run that reports nothing but its last event, in state SOF, swallows all its bytes: before that event the
receiver is not in state SOF. -/
theorem swallows_of_rxRun {s : State} {bs : List Byte} {cost : Nat} {r : Rx} {ev : Event} (hcost : cost ≤ bs.length)
    (hrun : rxRun s.cfg s.rx (bs.take cost) = .ok (r, List.replicate (cost - 1) Event.none ++ [ev]))
    (hr : r.state = .sof) {e : Event → Prop} (hev : e ev) :
    (∃ (t : State) (ev : Event), rxFeed (bs.take cost) s = .next t ∧ t.rx.state = .sof ∧ e ev ∧
      t.outputs = s.outputs ++ List.replicate (cost - 1) (Output.event .none) ++ [Output.event ev]) ∧
    (∀ k, 0 < k → k < cost → ∃ t : State, rxFeed (bs.take k) s = .next t ∧ t.rx.state ≠ .sof) := by
  refine ⟨⟨_, ev, rxFeed_of_rxRun hrun, hr, hev, by simp⟩, fun k hpos hlt => ?_⟩
  obtain ⟨r₁, htake⟩ := rxRun_take hrun k
  rw [List.take_take, Nat.min_eq_left hlt.le] at htake
  refine ⟨_, rxFeed_of_rxRun htake, state_ne_sof_of_rxRun htake ?_ fun e he => ?_⟩
  · intro hnil
    have hlen := congrArg List.length hnil
    rw [List.length_take, List.length_nil] at hlen
    omega
  · rw [List.take_append_of_le_length (by rw [List.length_replicate]; omega)] at he
    exact List.eq_of_mem_replicate (List.mem_of_mem_take he)

/-- One more byte of a sequence. -/
theorem take_succ_byteAt {bs : List Byte} {k : Nat} (hk : k < bs.length) :
    bs.take (k + 1) = bs.take k ++ [byteAt bs k] := by
  rw [List.take_add_one, List.getElem?_eq_getElem hk, byteAt_of_getElem? (List.getElem?_eq_getElem hk)]
  rfl

/-- The four bytes from a marker on are a header, of the length that two of them say. -/
theorem take_four_eq_frameHeader {bs : List Byte} (hlen : 4 ≤ bs.length) :
    bs.take 4 = frameHeader (byteAt bs 0) (byteAt bs 3) (le16 (byteAt bs 1) (byteAt bs 2)) := by
  rw [take_succ_byteAt (by omega), take_succ_byteAt (by omega), take_succ_byteAt (by omega),
    take_succ_byteAt (by omega), frameHeader, loByte_le16, hiByte_le16]
  rfl

/-- A frame whose header check passes: the receiver stands past the header, and its distance from state SOF is
that of the frame announced. -/
theorem rxRun_checkedHeader {cfg : Config} {r : Rx} (hst : r.state = .sof) (seq : Byte) {n : Half}
    (hfits : n ≤ cfg.maxDlen) {c : Byte} (hc : c = crc8 (frameHeader cfg.sof seq n)) :
    ∃ r' : Rx, rxRun cfg r (frameHeader cfg.sof seq n ++ [c]) = .ok (r', List.replicate 5 .none) ∧
      r'.inRange cfg ∧ r'.pastHeader ∧ r'.bytesToSof cfg = 4 + n.toNat :=
  ⟨_, rxRun_append_ok (rxRun_header hst seq hfits) (rxRun_crc8 rfl hc), And.intro (.inl rfl) hfits, .inl rfl, rfl⟩

/-- Settles O60: the length test, the header check, or the whole frame that the header announces. -/
theorem falseStartCost : Obligations.FalseStartCost := by
  unfold Obligations.FalseStartCost
  intro s bs hst hsof
  refine ⟨fun hover hlen => ?overflow, fun hfits hcrc hlen => ?mismatch, fun hfits hcrc hlen => ?frame⟩
  case overflow =>
    have htake : bs.take 3 = [s.cfg.sof, byteAt bs 1, byteAt bs 2] := by
      rw [take_succ_byteAt (by omega), take_succ_byteAt (by omega), take_succ_byteAt (by omega), hsof]
      rfl
    obtain ⟨r, hrun, hr⟩ := rxRun_overflow hst hover
    exact swallows_of_rxRun hlen (htake ▸ hrun) hr rfl
  case mismatch =>
    have hheader := take_four_eq_frameHeader (bs := bs) (by omega)
    rw [hsof] at hheader
    rw [slice_zero, hheader, crc8_eq, value8_eq_reflect] at hcrc
    have hrun := rxRun_append_ok (rxRun_header hst (byteAt bs 3) hfits)
      (rxRun_cons ((rxStep_crc8 (byteAt bs 4) rfl).trans (rxCrc8_mismatch hcrc)) (rxRun_nil _ _))
    rw [← hheader, ← take_succ_byteAt (by omega)] at hrun
    exact swallows_of_rxRun hlen hrun rfl rfl
  case frame =>
    have hheader := take_four_eq_frameHeader (bs := bs) (by omega)
    rw [hsof] at hheader
    rw [slice_zero, hheader] at hcrc
    obtain ⟨r₁, hstart, hr₁, hpast, hcount⟩ := rxRun_checkedHeader hst (byteAt bs 3) hfits hcrc
    rw [← hheader, ← take_succ_byteAt (by omega)] at hstart
    have hrest : ((bs.drop 5).take (r₁.bytesToSof s.cfg)).length = r₁.bytesToSof s.cfg := by
      rw [List.length_take, List.length_drop, hcount]
      omega
    obtain ⟨r, e, hend, hr, hcode⟩ := rxRun_of_pastHeader hr₁ hpast hrest
    have hrun := rxRun_append_ok hstart hend
    rw [hrest, hcount, ← List.take_add, ← List.append_assoc, ← List.replicate_add,
      show 5 + (4 + (le16 (byteAt bs 1) (byteAt bs 2)).toNat) = 9 + (le16 (byteAt bs 1) (byteAt bs 2)).toNat by omega,
      show 5 + (4 + (le16 (byteAt bs 1) (byteAt bs 2)).toNat - 1) =
        9 + (le16 (byteAt bs 1) (byteAt bs 2)).toNat - 1 by omega] at hrun
    exact swallows_of_rxRun hlen hrun hr hcode

end Sys2Proof.Machine
end
